-- ==== Sys2Proof/Word.lean ====
section
/-! DEFINITION. The bit patterns of the spec (00_scope.md R7 to R9): bytes, 32-bit patterns and the 2-bit width code. -/

namespace Sys2Proof

/-- A payload element or op-code: 8 bits, bit 7 the most significant (R7 `PAYLOAD_UNIT`, R8). -/
abbrev Byte := BitVec 8

/-- A 32-bit pattern: a counter-width result (R7 `RESULT_BITS`) or a data operand (R7 `DATA_OPERAND_BITS`). -/
abbrev Pattern := BitVec 32

/-- The 2-bit MDR1 width-field code in which the block stores W (10_state.md R19). -/
abbrev WidthCode := BitVec 2

end Sys2Proof
end

