-- ==== Sys2Proof/Config.lean ====
section
/-! DEFINITION. The parameters of the spec (00_scope.md R7) and the values it leaves free. A free value is an opaque
constant: nothing in Lean can evaluate it, so no claim rests on what it is. -/

namespace Sys2Proof

/-- The chip-select identifiers of the closed machine `core`. OPEN in the spec (R7, 92_eei_decisions.md D19: "any type
with equality"), and an argument σ of every definition below the closed machine; there it is the natural numbers, as the
host's interface asks for one closed type. DESIGN CHOICE (log entry 4). -/
abbrev SelectId := Nat

/-- The failure values of the closed machine's transport. OPEN in the spec (R7, D19: "any type") and only ever passed
through unchanged (R96): an argument ε of every definition below the closed machine. DESIGN CHOICE (log entry 4). -/
abbrev TransportError := Nat

/-- What the transport answers to one exchange (20_memory.md R38): a byte, a failure, or nothing ever. -/
inductive Answer (ε : Type) where
  | ok (b : Byte)
  | fail (e : ε)
  | noAnswer
  deriving DecidableEq, Repr, Inhabited

namespace Config

/-- `READ_FILL_BYTE` of R7: the out-byte of every payload exchange of a read (R40, D3). -/
def readFill : Byte := 0x00#8

/-- `WIDTH_RESET` of R7, 4 bytes, as the width code 00 (10_state.md R19, 70_reset_and_hazards.md R112). -/
def resetWidthCode : WidthCode := 0#2

/-- `MAX_PAYLOAD` of R7: no frame has more payload bytes. -/
def maxPayload : Nat := 4

/-- The identifier the closed machine's block is bound to at construction (10_state.md R18). Log entry 5: left uninterpreted. -/
opaque selectId : SelectId

/-- The transport's answer to the exchange numbered k, where no answer is listed in the state (R38: "a free input, a
draw"). Log entry 3. -/
opaque freeAnswer {ε : Type} : Nat → Answer ε

/-- `OPB` after a frame, "unspecified" (10_state.md R26, 93 U8). Log entry 7. -/
opaque freeOpb : Nat → Byte

/-- `N` after a frame, "unspecified" (10_state.md R26, 93 U8). Log entry 7. -/
opaque freeCount : Nat → Nat

/-- `OUT` after a frame, "unspecified" (10_state.md R26, 93 U8). Log entry 7. -/
opaque freeOut : Nat → List Byte

/-- `ACC` after a frame, "unspecified" (10_state.md R26, 93 U8). Log entry 7. -/
opaque freeAcc : Nat → Pattern

end Config
end Sys2Proof
end

