-- ==== Sys2Proof/Syntax.lean ====
section
/-! DEFINITION. The operations, the host's commands, and the names the encoding tables use. -/

namespace Sys2Proof

/-- The 14 operations (00_scope.md R3, 30_encoding.md R59), in the order of the op-code table, each with its operand
(R61). Every operand value is legal (42_write.md R87, R89), so every term is a well-formed operation. -/
inductive Instr where
  | clearModeRegister0
  | clearModeRegister1
  | clearCounter
  | clearStatusRegister
  | readModeRegister0
  | readModeRegister1
  | readCounter
  | readOtr
  | readStatusRegister
  | writeModeRegister0 (v : Byte)
  | writeModeRegister1 (v : Byte)
  | writeDataRegister (value : Pattern)
  | loadCounter
  | loadOtr
  deriving DecidableEq, Repr

/-- The operation a command names: one of the 14, or a name outside them (60_exceptions.md R100 (a)). -/
inductive OpName where
  | clearModeRegister0
  | clearModeRegister1
  | clearCounter
  | clearStatusRegister
  | readModeRegister0
  | readModeRegister1
  | readCounter
  | readOtr
  | readStatusRegister
  | writeModeRegister0
  | writeModeRegister1
  | writeDataRegister
  | loadCounter
  | loadOtr
  | unlisted (name : String)
  deriving DecidableEq, Repr

/-- What a host puts on the command port: an operation's name and, where it takes one, a numeric operand
(30_encoding.md R61, R67). It may be ill-formed: the port refuses it then (R100). -/
structure Command where
  op : OpName
  operand : Option Int
  deriving DecidableEq, Repr

/-- Why the command port refuses a command (60_exceptions.md R100 (a) and (b), 30_encoding.md R67). -/
inductive CommandError where
  /-- R100 (a): the operation is not among the 14. -/
  | unknownOperation (name : String)
  /-- R100 (b): the operand is outside its type's range. -/
  | operandOutOfRange
  /-- R61, R67: one of the three operand-taking operations came without its operand (DEDUCED, log entry 11). -/
  | operandMissing
  /-- R61, R67: one of the ten operations that take no operand came with one (DEDUCED, log entry 11). -/
  | operandUnexpected
  deriving DecidableEq, Repr

/-- The five frame formats of 30_encoding.md R55. -/
inductive Format where
  | op
  | opIn1
  | opOut1
  | opInW
  | opOutW
  deriving DecidableEq, Repr

/-- The chip registers a frame can address (10_state.md R23). The block holds none of them. -/
inductive ChipRegister where
  | mdr0
  | mdr1
  | dtr
  | cntr
  | otr
  | str
  deriving DecidableEq, Repr

/-- The kinds of access of 20_memory.md R35. -/
inductive Access where
  | read
  | write
  | clear
  | load
  deriving DecidableEq, Repr

/-- What a frame on the bus means to a party that decodes it. The two 0x10 clears are ONE meaning, `clear10`: a
decoder "must not pick one of the two names as if they differed" (30_encoding.md R60). `op` carries any of the other
twelve operations. -/
inductive FrameMeaning where
  | clear10
  | op (i : Instr)
  deriving DecidableEq, Repr

/-- Why a byte sequence is no frame the block emits. -/
inductive DecodeError where
  /-- No byte at all: a frame has at least its op-code byte (30_encoding.md R54, R56). -/
  | noOpcode
  /-- The first byte is one of the 243 values the block never emits (R64). -/
  | unlistedOpcode (b : Byte)
  /-- The frame ends before its payload count is reached (R55). -/
  | truncated
  /-- A read's payload exchange carries an out-byte other than `READ_FILL_BYTE` (20_memory.md R40). -/
  | fillNotZero
  /-- Bytes are left after the payload (R54: there is no terminator). -/
  | trailing
  deriving DecidableEq, Repr

/-- Why a line is not in the assembler syntax of 30_encoding.md R67. -/
inductive SyntaxError where
  /-- The operand is no C-style hexadecimal or decimal literal. -/
  | badLiteral
  /-- More than a name and one operand stand before the comment. -/
  | tooManyWords
  deriving DecidableEq, Repr

end Sys2Proof
end

