-- ==== Sys2Proof/WellFormed.lean ====
section
/-! DEFINITION. Which commands are within the host's contract (30_encoding.md R61, R67; 60_exceptions.md R100 (a), (b)).
An operation term itself (Instr) has no ill-formed value: its operands are fixed-width patterns, all legal. -/

namespace Sys2Proof

/-- The operand range of a mode-register write: 0..255 (R67). -/
def inByteRange (v : Int) : Bool := decide (0 ≤ v) && decide (v < 256)

/-- The operand range of write_data_register: 0..2^32-1, or -2^31..2^31-1 (R67). -/
def inDataRange (v : Int) : Bool := decide (-2147483648 ≤ v) && decide (v < 4294967296)

/-- A command the port accepts in Idle: a listed name, an operand exactly where the operation takes one, and that
operand in range. -/
def Command.wellFormed (c : Command) : Bool :=
  match c.op, c.operand with
  | .unlisted _, _ => false
  | .writeModeRegister0, some v => inByteRange v
  | .writeModeRegister0, none => false
  | .writeModeRegister1, some v => inByteRange v
  | .writeModeRegister1, none => false
  | .writeDataRegister, some v => inDataRange v
  | .writeDataRegister, none => false
  | .clearModeRegister0, operand => operand.isNone
  | .clearModeRegister1, operand => operand.isNone
  | .clearCounter, operand => operand.isNone
  | .clearStatusRegister, operand => operand.isNone
  | .readModeRegister0, operand => operand.isNone
  | .readModeRegister1, operand => operand.isNone
  | .readCounter, operand => operand.isNone
  | .readOtr, operand => operand.isNone
  | .readStatusRegister, operand => operand.isNone
  | .loadCounter, operand => operand.isNone
  | .loadOtr, operand => operand.isNone

end Sys2Proof
end

