-- ==== Sys2Proof/Decode.lean ====
section
/-! DEFINITION. Decoding of frames and of commands, total and rejecting by name, and after it the encoder, each from
the tables of 30_encoding.md. -/

namespace Sys2Proof

/-! ## Widths and byte order -/

/-- `W = 4 - WC` (10_state.md R19). -/
def widthOf (c : WidthCode) : Nat := 4 - c.toNat

/-- The MDR1 width field `v[1:0]`, already the storage code of the new W (10_state.md R25). -/
def widthField (v : Byte) : WidthCode := v.extractLsb' 0 2

/-- One more byte for the accumulator: the earlier bytes move up by 8 bits (00_scope.md R15, 41_read.md R79). -/
def accStep (acc : Pattern) (b : Byte) : Pattern := (acc <<< 8) ||| b.setWidth 32

/-- Assembly, most significant byte first: `raw = P[0] ++ P[1] ++ ... ++ P[N-1]` (41_read.md R79), zero-extended. -/
def assemble (bytes : List Byte) : Pattern := bytes.foldl accStep 0#32

/-- The payload of write_data_register at n bytes: `P[j] = value[8*(n-1-j)+7 : 8*(n-1-j)]` (30_encoding.md R62,
42_write.md R89). -/
def dataBytes (n : Nat) (value : Pattern) : List Byte :=
  (List.range n).map fun j => value.extractLsb' (8 * (n - 1 - j)) 8

/-- The low-order 8n bits of a pattern: what n transferred bytes carry (20_memory.md R42). -/
def lowBytes (n : Nat) (value : Pattern) : Pattern := value &&& (0xFFFFFFFF#32 >>> (32 - 8 * n))

/-! ## Frame decoder -/

/-- The rest of a read's frame: n payload exchanges, each with out-byte `READ_FILL_BYTE` (20_memory.md R40). -/
def takeFill (n : Nat) (i : Instr) (bytes : List Byte) : Except DecodeError (FrameMeaning × List Byte) :=
  if bytes.length < n then .error .truncated
  else if bytes.take n = List.replicate n Config.readFill then .ok (.op i, bytes.drop n)
  else .error .fillNotZero

/-- The rest of a mode-register write's frame: its one operand byte (30_encoding.md R62). -/
def takeByte (i : Byte → Instr) : List Byte → Except DecodeError (FrameMeaning × List Byte)
  | [] => .error .truncated
  | v :: rest => .ok (.op (i v), rest)

/-- The rest of a write_data_register frame: n bytes, most significant first (30_encoding.md R62). The bits the frame
does not carry are read as zero. -/
def takeData (n : Nat) (bytes : List Byte) : Except DecodeError (FrameMeaning × List Byte) :=
  if bytes.length < n then .error .truncated
  else .ok (.op (.writeDataRegister (assemble (bytes.take n))), bytes.drop n)

/-- One frame from the front of a byte sequence, as a receiver that tracks W reads it (30_encoding.md R56, op-codes of
R59), with the bytes after it. Every op-code byte outside the table is refused by name (R64). -/
def decodePrefix (c : WidthCode) : List Byte → Except DecodeError (FrameMeaning × List Byte)
  | [] => .error .noOpcode
  | b :: rest =>
    if b = 0x10#8 then .ok (.clear10, rest)
    else if b = 0x01#8 then .ok (.op .clearCounter, rest)
    else if b = 0x08#8 then .ok (.op .clearStatusRegister, rest)
    else if b = 0x48#8 then takeFill 1 .readModeRegister0 rest
    else if b = 0x50#8 then takeFill 1 .readModeRegister1 rest
    else if b = 0x60#8 then takeFill (widthOf c) .readCounter rest
    else if b = 0x68#8 then takeFill (widthOf c) .readOtr rest
    else if b = 0x70#8 then takeFill 1 .readStatusRegister rest
    else if b = 0x88#8 then takeByte .writeModeRegister0 rest
    else if b = 0x90#8 then takeByte .writeModeRegister1 rest
    else if b = 0x98#8 then takeData (widthOf c) rest
    else if b = 0xE0#8 then .ok (.op .loadCounter, rest)
    else if b = 0xE8#8 then .ok (.op .loadOtr, rest)
    else .error (.unlistedOpcode b)

/-- A whole frame: one frame and nothing after it, since the select release marks its end (30_encoding.md R56). -/
def decode (c : WidthCode) (bytes : List Byte) : Except DecodeError FrameMeaning :=
  match decodePrefix c bytes with
  | .ok (m, []) => .ok m
  | .ok (_, _ :: _) => .error .trailing
  | .error e => .error e

/-- An operation whose frame has this meaning. For clear (0x10) it stands for both clears: DESIGN CHOICE (log entry
12), as 30_encoding.md R60 gives the two names one meaning on the bus. -/
def FrameMeaning.representative : FrameMeaning → Instr
  | .clear10 => .clearModeRegister0
  | .op i => i

/-- Byte k of an instruction word as spec/opcode_table.json numbers its bits: bits 8k+7..8k. -/
def wordByte (nbits w k : Nat) : Byte := BitVec.ofNat 8 ((w % 2 ^ nbits) >>> (8 * k))

/-- The bytes of an instruction word up to the longest frame, 5 bytes (30_encoding.md R56), the op-code first. -/
def wordBytes (nbits w : Nat) : List Byte := (List.range 5).map (wordByte nbits w)

/-- The operation whose op-code (and operand bytes, laid out as in its frame at W = 4) an instruction word holds.
DESIGN CHOICE (log entry 13): the spec gives commands no words, only frames. A word that is no frame at W = 4 exactly is
the model's choice too: operand bytes the word does not hold are read as zero, bytes after the frame are ignored, and a
read's op-code followed by a byte other than the fill byte is no operation, like an op-code outside the table. -/
def decodeTableWord (nbits w : Nat) : Option Instr :=
  match decodePrefix Config.resetWidthCode (wordBytes nbits w) with
  | .ok (m, _) => some m.representative
  | .error _ => none

/-! ## Command decoder -/

/-- The operand byte of a mode-register write, in 0..255 (30_encoding.md R67). -/
def byteOperand (i : Byte → Instr) : Option Int → Except CommandError Instr
  | none => .error .operandMissing
  | some v => if 0 ≤ v ∧ v ≤ 255 then .ok (i (BitVec.ofInt 8 v)) else .error .operandOutOfRange

/-- The operand of write_data_register, in 0..2^32-1, or in -2^31..2^31-1 read as its two's-complement pattern
(30_encoding.md R67). -/
def dataOperand : Option Int → Except CommandError Instr
  | none => .error .operandMissing
  | some v =>
    if -(2 ^ 31) ≤ v ∧ v ≤ 2 ^ 32 - 1 then .ok (.writeDataRegister (BitVec.ofInt 32 v))
    else .error .operandOutOfRange

/-- The ten operations that take no operand (30_encoding.md R61). -/
def noOperand (i : Instr) : Option Int → Except CommandError Instr
  | none => .ok i
  | some _ => .error .operandUnexpected

/-- The operation a command stands for, or the reason the command port refuses it (60_exceptions.md R100 (a), (b)). -/
def decodeCommand (c : Command) : Except CommandError Instr :=
  match c.op with
  | .clearModeRegister0 => noOperand .clearModeRegister0 c.operand
  | .clearModeRegister1 => noOperand .clearModeRegister1 c.operand
  | .clearCounter => noOperand .clearCounter c.operand
  | .clearStatusRegister => noOperand .clearStatusRegister c.operand
  | .readModeRegister0 => noOperand .readModeRegister0 c.operand
  | .readModeRegister1 => noOperand .readModeRegister1 c.operand
  | .readCounter => noOperand .readCounter c.operand
  | .readOtr => noOperand .readOtr c.operand
  | .readStatusRegister => noOperand .readStatusRegister c.operand
  | .writeModeRegister0 => byteOperand .writeModeRegister0 c.operand
  | .writeModeRegister1 => byteOperand .writeModeRegister1 c.operand
  | .writeDataRegister => dataOperand c.operand
  | .loadCounter => noOperand .loadCounter c.operand
  | .loadOtr => noOperand .loadOtr c.operand
  | .unlisted name => .error (.unknownOperation name)

/-! ## Encoder -/

/-- The op-code byte of each operation: the literal table of 30_encoding.md R59, the clear rows included as they are
(R58, 00_scope.md R14). -/
def opcode : Instr → Byte
  | .clearModeRegister0 => 0x10#8
  | .clearModeRegister1 => 0x10#8
  | .clearCounter => 0x01#8
  | .clearStatusRegister => 0x08#8
  | .readModeRegister0 => 0x48#8
  | .readModeRegister1 => 0x50#8
  | .readCounter => 0x60#8
  | .readOtr => 0x68#8
  | .readStatusRegister => 0x70#8
  | .writeModeRegister0 _ => 0x88#8
  | .writeModeRegister1 _ => 0x90#8
  | .writeDataRegister _ => 0x98#8
  | .loadCounter => 0xE0#8
  | .loadOtr => 0xE8#8

/-- The frame format of each operation (30_encoding.md R55). -/
def Instr.format : Instr → Format
  | .clearModeRegister0 => .op
  | .clearModeRegister1 => .op
  | .clearCounter => .op
  | .clearStatusRegister => .op
  | .readModeRegister0 => .opIn1
  | .readModeRegister1 => .opIn1
  | .readCounter => .opInW
  | .readOtr => .opInW
  | .readStatusRegister => .opIn1
  | .writeModeRegister0 _ => .opOut1
  | .writeModeRegister1 _ => .opOut1
  | .writeDataRegister _ => .opOutW
  | .loadCounter => .op
  | .loadOtr => .op

/-- The payload count of a format (30_encoding.md R55). -/
def Format.payload (c : WidthCode) : Format → Nat
  | .op => 0
  | .opIn1 => 1
  | .opOut1 => 1
  | .opInW => widthOf c
  | .opOutW => widthOf c

/-- `pay(op, W)` (30_encoding.md R55). -/
def payloadCount (c : WidthCode) (i : Instr) : Nat := i.format.payload c

/-- Does the payload come in from the chip? (30_encoding.md R54, R55.) -/
def Instr.isRead (i : Instr) : Bool := i.format == .opIn1 || i.format == .opInW

/-- Does the frame's length depend on W? The three operations of 10_state.md R33. -/
def Instr.widthDependent (i : Instr) : Bool := i.format == .opInW || i.format == .opOutW

/-- The out-bytes of the payload exchanges, `outs` of 20_memory.md R40: the operand's bytes for a write, the fill byte
for a read, none for a clear or a load. -/
def outBytes (c : WidthCode) : Instr → List Byte
  | .writeModeRegister0 v => [v]
  | .writeModeRegister1 v => [v]
  | .writeDataRegister value => dataBytes (widthOf c) value
  | .clearModeRegister0 => []
  | .clearModeRegister1 => []
  | .clearCounter => []
  | .clearStatusRegister => []
  | .readModeRegister0 => [Config.readFill]
  | .readModeRegister1 => [Config.readFill]
  | .readCounter => List.replicate (widthOf c) Config.readFill
  | .readOtr => List.replicate (widthOf c) Config.readFill
  | .readStatusRegister => [Config.readFill]
  | .loadCounter => []
  | .loadOtr => []

/-- The bytes an operation's frame puts on the bus at width code c: `OPB, P[0], ..., P[N-1]` (30_encoding.md R54). -/
def encode (c : WidthCode) (i : Instr) : List Byte := opcode i :: outBytes c i

/-- What the frame of an operation says to a party that decodes it: the two 0x10 clears one meaning (30_encoding.md
R60), a data write only the bytes it carries (20_memory.md R42). -/
def meaningOf (c : WidthCode) : Instr → FrameMeaning
  | .clearModeRegister0 => .clear10
  | .clearModeRegister1 => .clear10
  | .writeDataRegister value => .op (.writeDataRegister (lowBytes (widthOf c) value))
  | .clearCounter => .op .clearCounter
  | .clearStatusRegister => .op .clearStatusRegister
  | .readModeRegister0 => .op .readModeRegister0
  | .readModeRegister1 => .op .readModeRegister1
  | .readCounter => .op .readCounter
  | .readOtr => .op .readOtr
  | .readStatusRegister => .op .readStatusRegister
  | .writeModeRegister0 v => .op (.writeModeRegister0 v)
  | .writeModeRegister1 v => .op (.writeModeRegister1 v)
  | .loadCounter => .op .loadCounter
  | .loadOtr => .op .loadOtr

/-- The command by which a host issues an operation on the command port. -/
def commandOf : Instr → Command
  | .clearModeRegister0 => ⟨.clearModeRegister0, none⟩
  | .clearModeRegister1 => ⟨.clearModeRegister1, none⟩
  | .clearCounter => ⟨.clearCounter, none⟩
  | .clearStatusRegister => ⟨.clearStatusRegister, none⟩
  | .readModeRegister0 => ⟨.readModeRegister0, none⟩
  | .readModeRegister1 => ⟨.readModeRegister1, none⟩
  | .readCounter => ⟨.readCounter, none⟩
  | .readOtr => ⟨.readOtr, none⟩
  | .readStatusRegister => ⟨.readStatusRegister, none⟩
  | .writeModeRegister0 v => ⟨.writeModeRegister0, some (Int.ofNat v.toNat)⟩
  | .writeModeRegister1 v => ⟨.writeModeRegister1, some (Int.ofNat v.toNat)⟩
  | .writeDataRegister value => ⟨.writeDataRegister, some (Int.ofNat value.toNat)⟩
  | .loadCounter => ⟨.loadCounter, none⟩
  | .loadOtr => ⟨.loadOtr, none⟩

/-! ## The op-code map -/

/-- The chip register an operation addresses (20_memory.md R35); for the 0x10 clears, the one its name gives. -/
def Instr.register : Instr → ChipRegister
  | .clearModeRegister0 => .mdr0
  | .clearModeRegister1 => .mdr1
  | .clearCounter => .cntr
  | .clearStatusRegister => .str
  | .readModeRegister0 => .mdr0
  | .readModeRegister1 => .mdr1
  | .readCounter => .cntr
  | .readOtr => .otr
  | .readStatusRegister => .str
  | .writeModeRegister0 _ => .mdr0
  | .writeModeRegister1 _ => .mdr1
  | .writeDataRegister _ => .dtr
  | .loadCounter => .cntr
  | .loadOtr => .otr

/-- The kind of access an operation makes (20_memory.md R35). -/
def Instr.access : Instr → Access
  | .clearModeRegister0 => .clear
  | .clearModeRegister1 => .clear
  | .clearCounter => .clear
  | .clearStatusRegister => .clear
  | .readModeRegister0 => .read
  | .readModeRegister1 => .read
  | .readCounter => .read
  | .readOtr => .read
  | .readStatusRegister => .read
  | .writeModeRegister0 _ => .write
  | .writeModeRegister1 _ => .write
  | .writeDataRegister _ => .write
  | .loadCounter => .load
  | .loadOtr => .load

/-- The access code of the derived layout, `OPB[7:6]` (30_encoding.md R57). -/
def Access.code : Access → BitVec 2
  | .clear => 0b00#2
  | .read => 0b01#2
  | .write => 0b10#2
  | .load => 0b11#2

/-- The register code of the derived layout, `OPB[5:3]` (30_encoding.md R57). -/
def ChipRegister.code : ChipRegister → BitVec 3
  | .mdr0 => 0b001#3
  | .mdr1 => 0b010#3
  | .dtr => 0b011#3
  | .cntr => 0b100#3
  | .otr => 0b101#3
  | .str => 0b110#3

/-- The byte the derived layout of 30_encoding.md R57 would give. It describes ten rows; no operation composes its
op-code from it (R57, R58, 90_conflicts.md C1). -/
def layoutByte (a : Access) (r : ChipRegister) : Byte := a.code ++ r.code ++ 0b000#3

end Sys2Proof
end

