-- ==== Sys2Proof/Machine/Flags.lean ====
section
/-! DEFINITION. The block has no status flags and no condition codes (10_state.md R21). The one bit its datapath
decides on is the sign bit of an assembled counter field (41_read.md R80). -/

namespace Sys2Proof.Machine

/-- Step 2 of a counter-width read: `s = raw[8*n - 1]` (41_read.md R80). -/
def signBit (raw : Pattern) (n : Nat) : Bool := raw.getLsbD (8 * n - 1)

end Sys2Proof.Machine
end

