-- ==== Sys2Proof/Machine/State.lean ====
section
/-! DEFINITION. The state of one block: the tuple of 10_state.md R31, its ports (R32), the inputs its environment
gives it, and the history of its bus port. -/

namespace Sys2Proof.Machine

/-! The spec leaves two types open, the select identifier and the transport's failure value, and says that "the model
takes both as arguments" (00_scope.md R7, 92_eei_decisions.md D19): σ is the first and ε the second, here and in every
definition of the machine. -/

/-- What the response port delivers (10_state.md R32, 60_exceptions.md R95). -/
inductive Response (ε : Type) where
  /-- `done`: an operation with no result completed (00_scope.md R10). -/
  | done
  /-- The raw byte of a 1-byte read (41_read.md R76 to R78). -/
  | byte (b : Byte)
  /-- The 32-bit two's-complement pattern of a counter-width read (41_read.md R81, R85). -/
  | count (p : Pattern)
  /-- A transport failure, its value unchanged (60_exceptions.md R96). -/
  | transportFailure (e : ε)
  deriving DecidableEq, Repr

/-- The transaction sequencer's phase PH (10_state.md R24). -/
inductive Phase (ε : Type) where
  /-- No operation is in progress and the select line is released. -/
  | idle
  /-- The select line is asserted and the op-code exchange of o is next or in progress. -/
  | op (o : Instr)
  /-- The payload exchange k of n is next or in progress, with 0 ≤ k < n. -/
  | pay (o : Instr) (k n : Nat)
  /-- All exchanges are done, or a failure ended them; the release is next and res is pending. -/
  | rel (o : Instr) (res : Response ε)
  /-- An exchange has not returned. -/
  | hung (o : Instr)
  deriving DecidableEq, Repr

/-- Is no operation in progress? -/
def Phase.isIdle {ε : Type} : Phase ε → Bool
  | .idle => true
  | .op _ => false
  | .pay _ _ _ => false
  | .rel _ _ => false
  | .hung _ => false

/-- One event on the bus port (00_scope.md R10, R11; 20_memory.md R36). -/
inductive BusEvent (σ ε : Type) where
  | assert (sel : σ)
  /-- One exchange: the byte sent and what the transport answered. -/
  | xchg (out : Byte) (answer : Answer ε)
  | release (sel : σ)
  deriving DecidableEq, Repr

/-- Another channel on the same bus: its select line, and whether that is asserted (60_exceptions.md R108). -/
structure Peer (σ : Type) where
  sel : σ
  asserted : Bool
  deriving DecidableEq, Repr

/-- What the host, or another channel it drives, does next. `issue` and `await` concern this block's command port
(10_state.md R27); the others move the other channels on the bus (60_exceptions.md R100 (d), (e), R108; log entry 14).
Each event but `await` happens in the step that finds it first, whatever the block is doing then (log entry 2). -/
inductive HostEvent (σ : Type) where
  /-- A command on this block's command port. -/
  | issue (c : Command)
  /-- The host blocks until no operation is in progress: the return of a "synchronous, blocking" call (R27). -/
  | await
  /-- A new channel is constructed on a select line of this bus. -/
  | construct (sel : σ)
  /-- The other channel on that line starts a frame. -/
  | peerAssert (sel : σ)
  /-- The other channel on that line ends its frame. -/
  | peerRelease (sel : σ)
  deriving DecidableEq, Repr

/-- One block and its environment, over the two open types. Plain data. -/
structure State.Of (σ ε : Type) where
  /-- `WC`, the storage code of the cached DataWidth W (10_state.md R17, R19). -/
  wc : WidthCode
  /-- `SEL`, the select binding (R18). -/
  sel : σ
  /-- `PH`, the sequencer phase (R24). -/
  phase : Phase ε
  /-- `OPB`, the op-code byte of the frame (R26). -/
  opb : Byte
  /-- `N`, the payload count of the frame (R26). -/
  count : Nat
  /-- `OUT[0..N-1]`, the outgoing payload bytes (R26). -/
  out : List Byte
  /-- `ACC`, the accumulator of incoming payload bytes (R26). -/
  acc : Pattern
  /-- The level of the select line `SEL` (R32, 70_reset_and_hazards.md R112). -/
  selAsserted : Bool
  /-- The response port: the response of the latest operation, none while one is in progress and at reset (R32, R112;
  log entry 8). -/
  response : Option (Response ε)
  /-- INPUT: what the host does next, oldest first (R27, R32; log entry 2). -/
  port : List (HostEvent σ)
  /-- INPUT: the answers of the coming exchanges, oldest first; beyond it every answer is free (20_memory.md R38; log
  entry 3). -/
  answers : List (Answer ε)
  /-- INPUT: the other channels on the bus (60_exceptions.md R108; log entry 14). -/
  peers : List (Peer σ)
  /-- MODEL'S OWN: how many exchanges have taken place; only the free values are functions of it (log entry 15). -/
  exchanges : Nat
  /-- MODEL'S OWN: the bus events so far, oldest first (00_scope.md R11; log entry 15). -/
  trace : List (BusEvent σ ε)
  deriving DecidableEq, Repr

/-- The state of the closed machine: the open types at those of Config.lean (log entry 4). -/
abbrev State := State.Of SelectId TransportError

/-- Why a step stops with no next state. -/
inductive Fault where
  /-- Raised by `busStep` in phase Hung: the block "must not" have "a step out of Hung(o)" (60_exceptions.md R99). A stuck
  state, not a failure value. Safe: no behaviour of the block is added. -/
  | hung
  /-- Raised by `busStep` in a state whose sequencer registers fit no frame (a payload index with no byte in OUT): no
  value 10_state.md R24 and R26 give them. Safe: no reachable state is such (log entry 16). -/
  | notInFrame
  deriving DecidableEq, Repr

/-- Why the command port, or the host's contract, refuses what was asked (60_exceptions.md R100): a model-level verdict
with no bus event. -/
inductive Refusal where
  /-- An operation that has no meaning yet. Raised by no arm of this model. Safe. -/
  | notModelled (mnemonic : String)
  /-- R100 (a), (b): the command is not one of the 14 operations with an operand in range. Raised by `issue`. Safe. -/
  | badCommand (e : CommandError)
  /-- R100 (c): an operation issued while PH is not Idle. Raised by `accept` and by every operation. Safe. -/
  | busy
  /-- R100 (d): an operation issued while another channel's select line on the bus is asserted. Raised by
  `accept` and by every operation, and by `assertPeer` for another channel's frame. Safe. -/
  | busHeld
  /-- R100 (e): a channel constructed on a select line already bound. Raised by `constructPeer`. Safe. -/
  | selectBound
  /-- The host names a channel it never constructed. Raised by `assertPeer` and `releasePeer` (log entry 14). Safe. -/
  | noSuchChannel
  deriving DecidableEq, Repr

/-- Construction with a select identifier: W = 4, PH = Idle, the line released, no bus event (70_reset_and_hazards.md
R111, R112). `OPB`, `N`, `OUT`, `ACC` are unspecified there: DESIGN CHOICE, zero (log entry 6). -/
def State.Of.construct {σ ε : Type} (sel : σ) : State.Of σ ε :=
  { wc := Config.resetWidthCode
    sel := sel
    phase := .idle
    opb := 0x00#8
    count := 0
    out := []
    acc := 0#32
    selAsserted := false
    response := none
    port := []
    answers := []
    peers := []
    exchanges := 0
    trace := [] }

/-- The block right after reset, which is its construction (70_reset_and_hazards.md R111), bound to `Config.selectId`
(10_state.md R18). -/
def State.reset : State := State.Of.construct Config.selectId

end Sys2Proof.Machine
end

