-- ==== Sys2Proof/Machine/Operands.lean ====
section
/-! DEFINITION. The operand forms and the read datapath: sign extension, what each operation responds, and the
outcome codes. -/

namespace Sys2Proof.Machine

variable {σ ε : Type}

/-- `MASK(n) = (0xFFFFFFFF << (8*n)) & 0xFFFFFFFF`; a shift by the whole width gives 0, so MASK(4) = 0 (41_read.md R81,
00_scope.md R9). -/
def mask (n : Nat) : Pattern := 0xFFFFFFFF#32 <<< (8 * n)

/-- `SignExt(raw, n)`: raw with all bits above 8n-1 set when its sign bit is (41_read.md R81). -/
def signExt (raw : Pattern) (n : Nat) : Pattern :=
  if signBit raw n then raw ||| mask n else raw

/-- The result of a 1-byte read: its one in-byte, unchanged (30_encoding.md R63, 41_read.md R76). -/
def byteResult (ins : List Byte) : Response ε := .byte (ins.headD 0x00#8)

/-- The result of a counter-width read of n bytes (41_read.md R79 to R82). -/
def countResult (n : Nat) (ins : List Byte) : Response ε := .count (signExt (assemble ins) n)

/-- A 32-bit result as a host with m-bit counts receives it: the same integer, sign-extended again (41_read.md R85,
D23). -/
def hostCount (m : Nat) (p : Pattern) : BitVec m := p.signExtend m

/-- The outcome code of a response: 0 normal, 1 transport failure (60_exceptions.md R95). -/
def Response.code : (Response ε) → Nat
  | .done => 0
  | .byte _ => 0
  | .count _ => 0
  | .transportFailure _ => 1

/-- The result the sequencer holds pending after the last exchange of a frame of n payload bytes, from the accumulator
(10_state.md R24, R26; 30_encoding.md R63). -/
def pendingResult (o : Instr) (n : Nat) (acc : Pattern) : Response ε :=
  match o.format with
  | .op => .done
  | .opIn1 => .byte (acc.setWidth 8)
  | .opOut1 => .done
  | .opInW => .count (signExt acc n)
  | .opOutW => .done

end Sys2Proof.Machine
end

