-- ==== Sys2Proof/Machine/Ops.lean ====
section
/-! DEFINITION. The named operations over the block's registers and ports: the bus primitives (00_scope.md R10), the
frame primitive (20_memory.md R39), the response, the transport failure (60_exceptions.md R97), and what every
operation shares. -/

namespace Sys2Proof.Machine

variable {σ ε : Type}

/-- What a step or a meaning answers. -/
abbrev Result (σ ε : Type) := Host.Outcome (State.Of σ ε) Fault Refusal

/-! ## Reading the state -/

/-- `W`, the cached DataWidth in bytes (10_state.md R17, R19). -/
def State.Of.width (s : State.Of σ ε) : Nat := widthOf s.wc

/-- The transport's answer to the k-th exchange from now: the listed one, else a free one (20_memory.md R38). -/
def State.Of.answerAt (s : State.Of σ ε) (k : Nat) : Answer ε :=
  s.answers[k]?.getD (Config.freeAnswer (s.exchanges + k))

/-- Is another channel's select line on the bus asserted? (60_exceptions.md R100 (d).) -/
def State.Of.busHeld (s : State.Of σ ε) : Bool := s.peers.any Peer.asserted

/-- Why the block turns an operation away before its frame starts, if it does (60_exceptions.md R98, R100 (c), (d)). -/
def State.Of.refusal (s : State.Of σ ε) : Option Refusal :=
  if !s.phase.isIdle then some .busy
  else if s.busHeld then some .busHeld
  else none

/-! ## Updates -/

/-- PH takes a value (10_state.md R24). -/
def State.Of.setPhase (p : Phase ε) (s : State.Of σ ε) : State.Of σ ε := { s with phase := p }

/-- The frame's registers are loaded as an operation starts: OPB, OUT, N fixed for the frame, ACC empty, no response
pending, PH = Op(o) (10_state.md R24, R26). -/
def State.Of.loadFrame (o : Instr) (opb : Byte) (outs : List Byte) (s : State.Of σ ε) : State.Of σ ε :=
  { s with phase := .op o, opb := opb, count := outs.length, out := outs, acc := 0#32, response := none }

/-- `Assert(SEL)`: it cannot fail (00_scope.md R10, D9). -/
def State.Of.assertSelect (s : State.Of σ ε) : State.Of σ ε :=
  { s with selAsserted := true, trace := s.trace ++ [.assert s.sel] }

/-- `Release(SEL)`: it cannot fail (00_scope.md R10, D9). -/
def State.Of.releaseSelect (s : State.Of σ ε) : State.Of σ ε :=
  { s with selAsserted := false, trace := s.trace ++ [.release s.sel] }

/-- The bus event of one exchange: byte b sent, the transport answering a. -/
def State.Of.exchanged (b : Byte) (a : Answer ε) (s : State.Of σ ε) : State.Of σ ε :=
  { s with answers := s.answers.tail, exchanges := s.exchanges + 1, trace := s.trace ++ [.xchg b a] }

/-- An in-byte of a payload exchange: ACC collects it for a read, a write discards it (10_state.md R26, 20_memory.md
R40, 30_encoding.md R66). -/
def State.Of.collect (o : Instr) (b : Byte) (s : State.Of σ ε) : State.Of σ ε :=
  { s with acc := if o.isRead then accStep s.acc b else s.acc }

/-- `W <- 4 - v[1:0]` as its storage code (42_write.md R88, 10_state.md R19). -/
def State.Of.setWidthCode (c : WidthCode) (s : State.Of σ ε) : State.Of σ ε := { s with wc := c }

/-- `respond(v)`: the operation ends with a value on the response port and PH returns to Idle. OPB, N, OUT and ACC do
not survive: free values (10_state.md R26, log entry 7). -/
def State.Of.respond (r : Response ε) (s : State.Of σ ε) : State.Of σ ε :=
  { s with
    response := some r
    phase := .idle
    opb := Config.freeOpb s.exchanges
    count := Config.freeCount s.exchanges
    out := Config.freeOut s.exchanges
    acc := Config.freeAcc s.exchanges }

/-- The host's list of what it does next is replaced. -/
def State.Of.setPort (p : List (HostEvent σ)) (s : State.Of σ ε) : State.Of σ ε := { s with port := p }

/-- The other channels on the bus are replaced. -/
def State.Of.setPeers (p : List (Peer σ)) (s : State.Of σ ε) : State.Of σ ε := { s with peers := p }

/-! ## The bus and the frame -/

/-- `Xchg(b)`: one full-duplex byte exchange (00_scope.md R10, 20_memory.md R37). -/
def xchg (b : Byte) (s : State.Of σ ε) : Answer ε × State.Of σ ε := (s.answerAt 0, s.exchanged b (s.answerAt 0))

/-- How a frame ends: with its in-bytes, with a failure, or never (20_memory.md R39, 60_exceptions.md R99). -/
inductive FrameEnd (ε : Type) where
  | ok (ins : List Byte)
  | fail (e : ε)
  | hang
  deriving DecidableEq, Repr

/-- The payload exchanges of a frame in index order, up to the first that does not answer `ok` (20_memory.md R39). -/
def payload (o : Instr) : List Byte → State.Of σ ε → FrameEnd ε × State.Of σ ε
  | [], s => (.ok [], s)
  | b :: outs, s =>
    match xchg b s with
    | (.ok r, t) =>
      match payload o outs (t.collect o r) with
      | (.ok ins, u) => (.ok (r :: ins), u)
      | (.fail e, u) => (.fail e, u)
      | (.hang, u) => (.hang, u)
    | (.fail e, t) => (.fail e, t)
    | (.noAnswer, t) => (.hang, t)

/-- The end of a frame: the release on every exit path but a hang, which keeps the line asserted for good
(20_memory.md R39, 60_exceptions.md R97, R99). -/
def closeFrame (o : Instr) : FrameEnd ε × State.Of σ ε → FrameEnd ε × State.Of σ ε
  | (.ok ins, s) => (.ok ins, s.releaseSelect)
  | (.fail e, s) => (.fail e, s.releaseSelect)
  | (.hang, s) => (.hang, s.setPhase (.hung o))

/-- The exchanges of a frame: the op-code's, its in-byte discarded (30_encoding.md R66), then the payload's. -/
def frameExchanges (o : Instr) (opb : Byte) (outs : List Byte) (s : State.Of σ ε) : FrameEnd ε × State.Of σ ε :=
  match xchg opb s with
  | (.ok _, t) => payload o outs t
  | (.fail e, t) => (.fail e, t)
  | (.noAnswer, t) => (.hang, t)

/-- The start of a frame: its registers loaded and the select line asserted, event 1 (20_memory.md R39). -/
def openFrame (o : Instr) (opb : Byte) (outs : List Byte) (s : State.Of σ ε) : State.Of σ ε :=
  (s.loadFrame o opb outs).assertSelect

/-- `Frame(opb, outs, n)` with n the length of outs (20_memory.md R39). -/
def frame (o : Instr) (opb : Byte) (outs : List Byte) (s : State.Of σ ε) : FrameEnd ε × State.Of σ ε :=
  closeFrame o (frameExchanges o opb outs (openFrame o opb outs s))

/-- `raise TransportFailure(e)`: the failure is the response, unchanged, W is kept and PH returns to Idle
(60_exceptions.md R96, R97). The frame has already released the select line. No handler runs, so there is no return
from it (R104). -/
def raiseTransportFailure (e : ε) (s : State.Of σ ε) : State.Of σ ε := s.respond (.transportFailure e)

/-- What an operation makes of its frame's end: `finish` on success, the failure raised, or the block left hung. -/
def settle (finish : List Byte → State.Of σ ε → State.Of σ ε) : FrameEnd ε × State.Of σ ε → State.Of σ ε
  | (.ok ins, s) => finish ins s
  | (.fail e, s) => raiseTransportFailure e s
  | (.hang, s) => s

/-- The shape every operation has (files 40 to 43): refused before any bus event, or exactly one frame and then its end
(20_memory.md R39, R46; 60_exceptions.md R98). -/
def operate (o : Instr) (opb : Byte) (outs : List Byte) (finish : List Byte → State.Of σ ε → State.Of σ ε) (s : State.Of σ ε) : Result σ ε :=
  match s.refusal with
  | some r => .refused r
  | none => .next (settle finish (frame o opb outs s))

/-- `respond(done)` after a frame whose in-bytes are discarded (40_clear.md R74, 42_write.md R86, 43_load.md R94). -/
def respondDone (_ins : List Byte) (s : State.Of σ ε) : State.Of σ ε := s.respond .done

end Sys2Proof.Machine
end

