-- ==== Sys2Proof/Machine/Clear.lean ====
section
/-! DEFINITION. The four clear operations (40_clear.md R70 to R74): one op-code byte, no payload, W untouched. -/

namespace Sys2Proof.Machine

variable {σ ε : Type}

/-- clear_mode_register_0 (40_clear.md R70). -/
def execClearModeRegister0 (s : State.Of σ ε) : Result σ ε := operate .clearModeRegister0 0x10#8 [] respondDone s

/-- clear_mode_register_1 (40_clear.md R71): the same op-code byte, and W unchanged although MDR1 holds the width. -/
def execClearModeRegister1 (s : State.Of σ ε) : Result σ ε := operate .clearModeRegister1 0x10#8 [] respondDone s

/-- clear_counter (40_clear.md R72). -/
def execClearCounter (s : State.Of σ ε) : Result σ ε := operate .clearCounter 0x01#8 [] respondDone s

/-- clear_status_register (40_clear.md R73). -/
def execClearStatusRegister (s : State.Of σ ε) : Result σ ε := operate .clearStatusRegister 0x08#8 [] respondDone s

end Sys2Proof.Machine
end

