-- ==== Sys2Proof/Machine/Load.lean ====
section
/-! DEFINITION. The two load operations (43_load.md R92 to R94): one op-code byte, no payload, W untouched. -/

namespace Sys2Proof.Machine

variable {σ ε : Type}

/-- load_counter (43_load.md R92). -/
def execLoadCounter (s : State.Of σ ε) : Result σ ε := operate .loadCounter 0xE0#8 [] respondDone s

/-- load_OTR (43_load.md R93). -/
def execLoadOtr (s : State.Of σ ε) : Result σ ε := operate .loadOtr 0xE8#8 [] respondDone s

end Sys2Proof.Machine
end

