-- ==== Sys2Proof/Machine/Read.lean ====
section
/-! DEFINITION. The five read operations (41_read.md R75 to R83). -/

namespace Sys2Proof.Machine

variable {σ ε : Type}

/-- The shape of a 1-byte read: one payload exchange whatever W is, the byte unchanged (41_read.md R75, R76). -/
def readByte (o : Instr) (opb : Byte) (s : State.Of σ ε) : Result σ ε :=
  operate o opb [Config.readFill] (fun ins t => t.respond (byteResult ins)) s

/-- The shape of a counter-width read: W sampled at the frame's start, the bytes assembled and sign-extended
(41_read.md R79 to R82). -/
def readCount (o : Instr) (opb : Byte) (s : State.Of σ ε) : Result σ ε :=
  operate o opb (List.replicate s.width Config.readFill) (fun ins t => t.respond (countResult s.width ins)) s

/-- read_mode_register_0 (41_read.md R76). -/
def execReadModeRegister0 (s : State.Of σ ε) : Result σ ε := readByte .readModeRegister0 0x48#8 s

/-- read_mode_register_1 (41_read.md R77): W is not taken from the byte. -/
def execReadModeRegister1 (s : State.Of σ ε) : Result σ ε := readByte .readModeRegister1 0x50#8 s

/-- read_status_register (41_read.md R78). -/
def execReadStatusRegister (s : State.Of σ ε) : Result σ ε := readByte .readStatusRegister 0x70#8 s

/-- read_counter (41_read.md R82). -/
def execReadCounter (s : State.Of σ ε) : Result σ ε := readCount .readCounter 0x60#8 s

/-- read_OTR (41_read.md R83). -/
def execReadOtr (s : State.Of σ ε) : Result σ ε := readCount .readOtr 0x68#8 s

end Sys2Proof.Machine
end

