-- ==== Sys2Proof/Machine/Write.lean ====
section
/-! DEFINITION. The three write operations (42_write.md R86 to R90). -/

namespace Sys2Proof.Machine

variable {σ ε : Type}

/-- write_mode_register_0 (42_write.md R87): W unchanged for every v. -/
def execWriteModeRegister0 (v : Byte) (s : State.Of σ ε) : Result σ ε :=
  operate (.writeModeRegister0 v) 0x88#8 [v] respondDone s

/-- write_mode_register_1 (42_write.md R88): on success only, and before the response, W becomes 4 - v[1:0]. -/
def execWriteModeRegister1 (v : Byte) (s : State.Of σ ε) : Result σ ε :=
  operate (.writeModeRegister1 v) 0x90#8 [v] (fun _ t => (t.setWidthCode (widthField v)).respond .done) s

/-- write_data_register (42_write.md R90): the W low-order bytes, most significant first; W sampled at the frame's
start, the high-order bits dropped (R89). -/
def execWriteDataRegister (value : Pattern) (s : State.Of σ ε) : Result σ ε :=
  operate (.writeDataRegister value) 0x98#8 (dataBytes s.width value) respondDone s

end Sys2Proof.Machine
end

