-- ==== Sys2Proof/Machine/Dispatch.lean ====
section
/-! DEFINITION. One arm per operation of the op-code table (30_encoding.md R59). `exec` of an operation is its whole frame,
from the assert to the response or to Hung; the machine's steps make the same bus events one by one (log entry 1). -/

namespace Sys2Proof.Machine

def exec (i : Instr) (s : State) : Host.Outcome State Fault Refusal :=
  match i with
  | .clearModeRegister0 => Sys2Proof.Machine.execClearModeRegister0 s
  | .clearModeRegister1 => Sys2Proof.Machine.execClearModeRegister1 s
  | .clearCounter => Sys2Proof.Machine.execClearCounter s
  | .clearStatusRegister => Sys2Proof.Machine.execClearStatusRegister s
  | .readModeRegister0 => Sys2Proof.Machine.execReadModeRegister0 s
  | .readModeRegister1 => Sys2Proof.Machine.execReadModeRegister1 s
  | .readCounter => Sys2Proof.Machine.execReadCounter s
  | .readOtr => Sys2Proof.Machine.execReadOtr s
  | .readStatusRegister => Sys2Proof.Machine.execReadStatusRegister s
  | .writeModeRegister0 v => Sys2Proof.Machine.execWriteModeRegister0 v s
  | .writeModeRegister1 v => Sys2Proof.Machine.execWriteModeRegister1 v s
  | .writeDataRegister value => Sys2Proof.Machine.execWriteDataRegister value s
  | .loadCounter => Sys2Proof.Machine.execLoadCounter s
  | .loadOtr => Sys2Proof.Machine.execLoadOtr s

end Sys2Proof.Machine
end

