-- ==== Sys2Proof/Machine/Bus.lean ====
section
/-! DEFINITION. The other channels on the bus (60_exceptions.md R100 (d), (e), R108): their construction and their
select lines, as the host moves them. -/

namespace Sys2Proof.Machine

variable {σ ε : Type} [DecidableEq σ]

/-- Is there another channel on that line? -/
def State.Of.hasPeer (s : State.Of σ ε) (sel : σ) : Bool := s.peers.any fun p => p.sel == sel

/-- Is the select line already bound to a channel, this block's own included? -/
def State.Of.bound (s : State.Of σ ε) (sel : σ) : Bool := sel == s.sel || s.hasPeer sel

/-- Construction of another channel: refused on a line already bound (R100 (e)), else bound with its line released
(70_reset_and_hazards.md R111). -/
def constructPeer (sel : σ) (s : State.Of σ ε) : Result σ ε :=
  if s.bound sel then .refused .selectBound
  else .next (s.setPeers (s.peers ++ [⟨sel, false⟩]))

/-- The other channels with the one on this line at a new level. -/
def setLine (sel : σ) (level : Bool) (peers : List (Peer σ)) : List (Peer σ) :=
  peers.map fun p => if p.sel = sel then ⟨p.sel, level⟩ else p

/-- Another channel starts a frame: refused while any select line on the bus is asserted, this block's included
(R100 (d), R108 "at any moment at most one channel on a bus has its select line asserted"). -/
def assertPeer (sel : σ) (s : State.Of σ ε) : Result σ ε :=
  if !s.hasPeer sel then .refused .noSuchChannel
  else if s.selAsserted || s.busHeld then .refused .busHeld
  else .next (s.setPeers (setLine sel true s.peers))

/-- Another channel ends its frame. -/
def releasePeer (sel : σ) (s : State.Of σ ε) : Result σ ε :=
  if !s.hasPeer sel then .refused .noSuchChannel
  else .next (s.setPeers (setLine sel false s.peers))

end Sys2Proof.Machine
end

