-- ==== Sys2Proof/Machine/Sequencer.lean ====
section
/-! DEFINITION. The transaction sequencer (10_state.md R24): the same frames as Ops.lean's `frame`, one bus event at a
time (92_eei_decisions.md D1, "A step is one bus event"). -/

namespace Sys2Proof.Machine

variable {σ ε : Type}

/-- The first bus event of an operation, from Idle: the select line asserted, PH = Op(o) (10_state.md R24). -/
def begin (i : Instr) (s : State.Of σ ε) : State.Of σ ε := openFrame i (opcode i) (outBytes s.wc i) s

/-- An operation issued on the command port: turned away with no bus event, or accepted, which is its first bus event
(10_state.md R27; 60_exceptions.md R98, R100 (c), (d)). The steps that follow make the others. -/
def accept (i : Instr) (s : State.Of σ ε) : Result σ ε :=
  match s.refusal with
  | some r => .refused r
  | none => .next (begin i s)

/-- The phase after the op-code exchange answered `ok`: the first payload exchange, or the release (10_state.md R24). -/
def afterOpcode (o : Instr) (s : State.Of σ ε) : Phase ε :=
  if s.count = 0 then .rel o (pendingResult o s.count s.acc) else .pay o 0 s.count

/-- The phase after payload exchange k of n answered `ok`: the next one, or the release (10_state.md R24). -/
def afterPayload (o : Instr) (k n : Nat) (s : State.Of σ ε) : Phase ε :=
  if k + 1 < n then .pay o (k + 1) n else .rel o (pendingResult o n s.acc)

/-- W after an operation ends with a response: changed by a successful write_mode_register_1 and by nothing else
(10_state.md R33, 42_write.md R88). -/
def widthAfter (o : Instr) (res : Response ε) (c : WidthCode) : WidthCode :=
  match o, res with
  | .writeModeRegister1 v, .done => widthField v
  | _, _ => c

/-- What the block does in one step: one bus event of the operation in progress, which is the exchange PH names, or the
release that ends the frame with its response (92_eei_decisions.md D1). In Idle it waits (70_reset_and_hazards.md R114).
Nothing follows Hung (60_exceptions.md R99). -/
def busStep (s : State.Of σ ε) : Result σ ε :=
  match s.phase with
  | .idle => .next s
  | .hung _ => .fault .hung
  | .op o =>
    match xchg s.opb s with
    | (.ok _, t) => .next (t.setPhase (afterOpcode o t))
    | (.fail e, t) => .next (t.setPhase (.rel o (.transportFailure e)))
    | (.noAnswer, t) => .next (t.setPhase (.hung o))
  | .pay o k n =>
    match s.out[k]? with
    | none => .fault .notInFrame
    | some b =>
      match xchg b s with
      | (.ok r, t) => .next ((t.collect o r).setPhase (afterPayload o k n (t.collect o r)))
      | (.fail e, t) => .next (t.setPhase (.rel o (.transportFailure e)))
      | (.noAnswer, t) => .next (t.setPhase (.hung o))
  | .rel o res => .next ((s.releaseSelect.setWidthCode (widthAfter o res s.wc)).respond res)

end Sys2Proof.Machine
end

