-- ==== Sys2Proof/Machine/Fetch.lean ====
section
/-! DEFINITION. One step of a block and its environment: the next event the host lists, or the block's own next bus
event; and how an instruction word comes to stand on the command port. -/

namespace Sys2Proof.Machine

variable {σ ε : Type}

/-- A command on the command port: refused where it is outside the contract (60_exceptions.md R100 (a), (b)), else the
operation it names is issued (10_state.md R27). -/
def issue (c : Command) (s : State.Of σ ε) : Result σ ε :=
  match decodeCommand c with
  | .error e => .refused (.badCommand e)
  | .ok i => accept i s

/-- Does the host do nothing now, so that the next step is the block's own? -/
def State.Of.hostWaits (s : State.Of σ ε) : Bool :=
  match s.port with
  | [] => true
  | .await :: _ => true
  | .issue _ :: _ => false
  | .construct _ :: _ => false
  | .peerAssert _ :: _ => false
  | .peerRelease _ :: _ => false

/-- One step, for any types of select identifiers and failure values (92_eei_decisions.md D19). What the host lists next
happens first, whatever PH is; an operation issued while PH is not Idle is thus refused (60_exceptions.md R100 (c)). While
the host waits the block makes its next bus event (D1), and a wait ends when PH is Idle (10_state.md R27). -/
def advance [DecidableEq σ] (s : State.Of σ ε) : Result σ ε :=
  match s.port with
  | [] => busStep s
  | .await :: rest => if s.phase.isIdle then .next (s.setPort rest) else busStep s
  | .issue c :: rest => issue c (s.setPort rest)
  | .construct sel :: rest => constructPeer sel (s.setPort rest)
  | .peerAssert sel :: rest => assertPeer sel (s.setPort rest)
  | .peerRelease sel :: rest => releasePeer sel (s.setPort rest)

/-- The command an instruction word stands for. A word that holds no operation, by its op-code or by the bytes after a
read's, becomes a command of the name "unlisted op-code", which is none (30_encoding.md R64, 60_exceptions.md R100 (a);
DESIGN CHOICE, log entry 13). -/
def commandOfWord (nbits w : Nat) : Command :=
  match decodeTableWord nbits w with
  | some i => commandOf i
  | none => ⟨.unlisted "unlisted op-code", none⟩

end Sys2Proof.Machine
end

