-- ==== Sys2Proof/Machine/Step.lean ====
section
/-! DEFINITION. One step of the closed machine, and how an instruction word is placed where the next step takes it. -/

namespace Sys2Proof.Machine

/-- One step: an event of the host's, or one bus event of the block's (92_eei_decisions.md D1). The step that takes an
operation from the command port makes the first bus event of its frame; the steps to the end of the frame make the
others, and end where `exec` of the operation does (log entry 1). -/
def step (s : State) : Host.Outcome State Fault Refusal := advance s

/-- The state with the operation of an instruction word next on its command port, where the next step takes it (log entry
13). -/
def State.withFetchWord (s : State) (nbits w : Nat) : State :=
  s.setPort (.issue (commandOfWord nbits w) :: s.port)

end Sys2Proof.Machine
end

