-- ==== Sys2Proof/Machine/Assembler.lean ====
section
/-! DEFINITION. The textual syntax of 30_encoding.md R67 and the frame notation of R69. Notation only: no step reads
text (92_eei_decisions.md D15). -/

namespace Sys2Proof.Machine

/-! ## Names -/

/-- The name of each operation, "exactly as in rule R59" (30_encoding.md R67). -/
def opNames : List (List Char × OpName) :=
  [ ("clear_mode_register_0".toList, .clearModeRegister0),
    ("clear_mode_register_1".toList, .clearModeRegister1),
    ("clear_counter".toList, .clearCounter),
    ("clear_status_register".toList, .clearStatusRegister),
    ("read_mode_register_0".toList, .readModeRegister0),
    ("read_mode_register_1".toList, .readModeRegister1),
    ("read_counter".toList, .readCounter),
    ("read_OTR".toList, .readOtr),
    ("read_status_register".toList, .readStatusRegister),
    ("write_mode_register_0".toList, .writeModeRegister0),
    ("write_mode_register_1".toList, .writeModeRegister1),
    ("write_data_register".toList, .writeDataRegister),
    ("load_counter".toList, .loadCounter),
    ("load_OTR".toList, .loadOtr) ]

/-- The operation a name in a line names; a name outside the table is kept for the command port to refuse
(60_exceptions.md R100 (a)). -/
def opNameOf (name : List Char) : OpName :=
  match opNames.find? (fun row => row.1 == name) with
  | some row => row.2
  | none => .unlisted (String.ofList name)

/-- The name an operation is written by. -/
def nameText : Instr → List Char
  | .clearModeRegister0 => "clear_mode_register_0".toList
  | .clearModeRegister1 => "clear_mode_register_1".toList
  | .clearCounter => "clear_counter".toList
  | .clearStatusRegister => "clear_status_register".toList
  | .readModeRegister0 => "read_mode_register_0".toList
  | .readModeRegister1 => "read_mode_register_1".toList
  | .readCounter => "read_counter".toList
  | .readOtr => "read_OTR".toList
  | .readStatusRegister => "read_status_register".toList
  | .writeModeRegister0 _ => "write_mode_register_0".toList
  | .writeModeRegister1 _ => "write_mode_register_1".toList
  | .writeDataRegister _ => "write_data_register".toList
  | .loadCounter => "load_counter".toList
  | .loadOtr => "load_OTR".toList

/-! ## Literals -/

/-- The value of a decimal digit. -/
def decDigit (c : Char) : Option Nat :=
  if 48 ≤ c.toNat ∧ c.toNat ≤ 57 then some (c.toNat - 48) else none

/-- The value of a hexadecimal digit, in either case. -/
def hexDigit (c : Char) : Option Nat :=
  if 48 ≤ c.toNat ∧ c.toNat ≤ 57 then some (c.toNat - 48)
  else if 65 ≤ c.toNat ∧ c.toNat ≤ 70 then some (c.toNat - 55)
  else if 97 ≤ c.toNat ∧ c.toNat ≤ 102 then some (c.toNat - 87)
  else none

/-- The number a run of digits writes, most significant digit first, after a number already read. -/
def digits (base : Nat) (digit : Char → Option Nat) : Nat → List Char → Option Nat
  | n, [] => some n
  | n, c :: cs =>
    match digit c with
    | some d => digits base digit (n * base + d) cs
    | none => none

/-- An unsigned C-style hexadecimal or decimal literal (30_encoding.md R67). A decimal literal of more than one digit
does not begin with 0: in C that is an octal one (DEDUCED, log entry 17). No integer suffix (u, l) may follow the digits
(DESIGN CHOICE, log entry 17). -/
def natLiteral : List Char → Option Nat
  | [] => none
  | ['0'] => some 0
  | '0' :: _ :: [] => none
  | '0' :: x :: d :: ds => if x = 'x' ∨ x = 'X' then digits 16 hexDigit 0 (d :: ds) else none
  | cs => digits 10 decDigit 0 cs

/-- A literal with an optional minus sign: R67 gives operands from -2^31. A leading plus sign is refused (DESIGN CHOICE,
log entry 17). -/
def intLiteral : List Char → Option Int
  | '-' :: cs => (natLiteral cs).map fun n => -Int.ofNat n
  | cs => (natLiteral cs).map Int.ofNat

/-! ## Lines -/

/-- A space or a tab, the separators of a line's words (DESIGN CHOICE, log entry 17). -/
def isBlank (c : Char) : Bool := c == ' ' || c == '\t'

/-- The pieces of a line between its blanks, empty ones included. -/
def pieces : List Char → List (List Char)
  | [] => [[]]
  | c :: cs =>
    if isBlank c then [] :: pieces cs
    else
      match pieces cs with
      | [] => [[c]]
      | w :: ws => (c :: w) :: ws

/-- The words of a line, before its optional `; comment` (30_encoding.md R67). The ';' may directly follow a word
(DESIGN CHOICE, log entry 17). -/
def lineWords (line : List Char) : List (List Char) :=
  (pieces (line.takeWhile (· != ';'))).filter (· != [])

/-- One line: an operation's name and at most one operand, or nothing (30_encoding.md R67; log entry 17). -/
def parseLine (line : List Char) : Except SyntaxError (Option Command) :=
  match lineWords line with
  | [] => .ok none
  | [name] => .ok (some ⟨opNameOf name, none⟩)
  | [name, literal] =>
    match intLiteral literal with
    | some v => .ok (some ⟨opNameOf name, some v⟩)
    | none => .error .badLiteral
  | _ :: _ :: _ :: _ => .error .tooManyWords

/-- A program, one operation per line, as what a host then does: it issues each and waits for its response
(30_encoding.md R67, 10_state.md R27). -/
def parseProgram {σ : Type} : List (List Char) → Except SyntaxError (List (HostEvent σ))
  | [] => .ok []
  | line :: lines =>
    match parseLine line, parseProgram lines with
    | .error e, _ => .error e
    | .ok _, .error e => .error e
    | .ok none, .ok rest => .ok rest
    | .ok (some c), .ok rest => .ok (.issue c :: .await :: rest)

/-! ## Writing -/

/-- A hexadecimal digit in capitals, as the spec's frames have them. -/
def hexChar (n : Nat) : Char := if n < 10 then Char.ofNat (48 + n) else Char.ofNat (55 + n)

/-- A byte as two hexadecimal digits. -/
def hexByte (b : Byte) : List Char := [hexChar (b.toNat / 16), hexChar (b.toNat % 16)]

/-- An operation as one line: its name and, where it takes one, its operand in hexadecimal (30_encoding.md R67). -/
def lineText (i : Instr) : List Char :=
  match i with
  | .writeModeRegister0 v => nameText i ++ " 0x".toList ++ hexByte v
  | .writeModeRegister1 v => nameText i ++ " 0x".toList ++ hexByte v
  | .writeDataRegister value => nameText i ++ " 0x".toList ++ (dataBytes 4 value).flatMap hexByte
  | .clearModeRegister0 => nameText i
  | .clearModeRegister1 => nameText i
  | .clearCounter => nameText i
  | .clearStatusRegister => nameText i
  | .readModeRegister0 => nameText i
  | .readModeRegister1 => nameText i
  | .readCounter => nameText i
  | .readOtr => nameText i
  | .readStatusRegister => nameText i
  | .loadCounter => nameText i
  | .loadOtr => nameText i

/-- A frame in the notation of 30_encoding.md R69, `[OPB P0 ... Pn-1]`: out-bytes plain, a read's in-bytes as `<xx>`
and its fill bytes not written. -/
def frameText (c : WidthCode) (i : Instr) (ins : List Byte) : List Char :=
  "[".toList ++ hexByte (opcode i)
    ++ (if i.isRead then ins.flatMap (fun b => " <".toList ++ hexByte b ++ ">".toList)
        else (outBytes c i).flatMap (fun b => " ".toList ++ hexByte b))
    ++ "]".toList

end Sys2Proof.Machine
end

