-- ==== Sys2Proof/Machine/Rename.lean ====
section
/-! DEFINITION. The renaming of select identifiers and failure values: a block over two open types (00_scope.md R7,
92_eei_decisions.md D19) read as a block over two others. -/

namespace Sys2Proof.Machine

variable {σ σ' ε ε' : Type}

/-- A response with its failure value renamed. -/
def Response.rename (g : ε → ε') : Response ε → Response ε'
  | .done => .done
  | .byte b => .byte b
  | .count p => .count p
  | .transportFailure e => .transportFailure (g e)

/-- A transport's answer with its failure value renamed. -/
def renameAnswer (g : ε → ε') : Answer ε → Answer ε'
  | .ok b => .ok b
  | .fail e => .fail (g e)
  | .noAnswer => .noAnswer

/-- A phase with its pending failure value renamed. -/
def Phase.rename (g : ε → ε') : Phase ε → Phase ε'
  | .idle => .idle
  | .op o => .op o
  | .pay o k n => .pay o k n
  | .rel o res => .rel o (res.rename g)
  | .hung o => .hung o

/-- A bus event with its line and its failure value renamed. -/
def BusEvent.rename (f : σ → σ') (g : ε → ε') : BusEvent σ ε → BusEvent σ' ε'
  | .assert sel => .assert (f sel)
  | .xchg b a => .xchg b (renameAnswer g a)
  | .release sel => .release (f sel)

/-- Another channel with its line renamed. -/
def Peer.rename (f : σ → σ') (p : Peer σ) : Peer σ' := ⟨f p.sel, p.asserted⟩

/-- An event of the host's with its line renamed. -/
def HostEvent.rename (f : σ → σ') : HostEvent σ → HostEvent σ'
  | .issue c => .issue c
  | .await => .await
  | .construct sel => .construct (f sel)
  | .peerAssert sel => .peerAssert (f sel)
  | .peerRelease sel => .peerRelease (f sel)

/-- A state with every select identifier and every failure value in it renamed. -/
def State.Of.rename (f : σ → σ') (g : ε → ε') (s : State.Of σ ε) : State.Of σ' ε' :=
  { wc := s.wc
    sel := f s.sel
    phase := s.phase.rename g
    opb := s.opb
    count := s.count
    out := s.out
    acc := s.acc
    selAsserted := s.selAsserted
    response := s.response.map (Response.rename g)
    port := s.port.map (HostEvent.rename f)
    answers := s.answers.map (renameAnswer g)
    peers := s.peers.map (Peer.rename f)
    exchanges := s.exchanges
    trace := s.trace.map (BusEvent.rename f g) }

/-- What a step answered, its next state renamed. -/
def renameResult (f : σ → σ') (g : ε → ε') : Result σ ε → Result σ' ε'
  | .next t => .next (t.rename f g)
  | .fault r => .fault r
  | .refused r => .refused r

end Sys2Proof.Machine
end

