-- ==== Sys2Proof/Safety.lean ====
section
/-! DEFINITION. What counts as a safe run, in the terms claims use: the shape of the bus trace, the block's invariant,
what a claim says of one frame, and the rules a host must obey about the chip's width. -/

namespace Sys2Proof.Machine

variable {σ ε : Type}

/-! ## The bus trace -/

/-- The level of the select line after a list of bus events, from a level; none where an event may not happen at the
level it meets: a second assert, a release or an exchange while the line is released, or another line's event
(20_memory.md R37, R39, R46). -/
def lineAfter [DecidableEq σ] (sel : σ) : Bool → List (BusEvent σ ε) → Option Bool
  | level, [] => some level
  | level, .assert l :: es => if !level && l == sel then lineAfter sel true es else none
  | level, .xchg _ _ :: es => if level then lineAfter sel level es else none
  | level, .release l :: es => if level && l == sel then lineAfter sel false es else none

/-- The exchanges that send these bytes and meet these answers, as far as both go. -/
def xchgEvents (bytes : List Byte) (answers : List (Answer ε)) : List (BusEvent σ ε) :=
  List.zipWith .xchg bytes answers

/-- Is the event an assertion of the select line? -/
def BusEvent.isAssert : BusEvent σ ε → Bool
  | .assert _ => true
  | .xchg _ _ => false
  | .release _ => false

/-- Is the event a release of the select line? -/
def BusEvent.isRelease : BusEvent σ ε → Bool
  | .assert _ => false
  | .xchg _ _ => false
  | .release _ => true

/-- Is the event an exchange? -/
def BusEvent.isXchg : BusEvent σ ε → Bool
  | .assert _ => false
  | .xchg _ _ => true
  | .release _ => false

/-! ## The block's invariant -/

/-- The frame's registers are those of operation o (10_state.md R26). -/
def State.Of.frameOf (s : State.Of σ ε) (o : Instr) : Prop :=
  s.opb = opcode o ∧ s.out = outBytes s.wc o ∧ s.count = payloadCount s.wc o

/-- Is the response one the operation can give: a transport failure, or a result of its format's kind (30_encoding.md
R55; 60_exceptions.md R95)? -/
def Response.fits (o : Instr) : Response ε → Bool
  | .done => o.format == .op || o.format == .opOut1 || o.format == .opOutW
  | .byte _ => o.format == .opIn1
  | .count _ => o.format == .opInW
  | .transportFailure _ => true

/-- The sequencer's registers agree with its phase (10_state.md R24, R26): inside a frame they are that frame's, to its
release; 0 ≤ k < n in Pay(o, k, n), with k bytes at most in the accumulator; and what is pending in Rel(o, res) is a
response o can give. -/
def State.Of.sequencerOk (s : State.Of σ ε) : Prop :=
  match s.phase with
  | .idle => True
  | .op o => s.frameOf o ∧ s.acc = 0#32
  | .pay o k n => s.frameOf o ∧ n = s.count ∧ k < n ∧ s.acc.toNat < 256 ^ k
  | .rel o res => s.frameOf o ∧ res.fits o = true
  | .hung o => s.frameOf o

/-- The invariant of a block on its bus: the trace pairs asserts and releases and ends at the line's level, the line is
asserted exactly while an operation is in progress, no response is given meanwhile, the sequencer's registers agree with
its phase, no two channels share a select line, and at most one line on the bus is asserted (10_state.md R18, R24;
20_memory.md R37, R39; 60_exceptions.md R100, R108). -/
structure State.Of.Inv [DecidableEq σ] (s : State.Of σ ε) : Prop where
  trace_paired : lineAfter s.sel false s.trace = some s.selAsserted
  asserted_iff_busy : s.selAsserted = !s.phase.isIdle
  silent_while_busy : s.phase.isIdle = false → s.response = none
  sequencer : s.sequencerOk
  lines_distinct : (s.sel :: s.peers.map Peer.sel).Nodup
  one_line : (s.selAsserted :: s.peers.map Peer.asserted).count true ≤ 1

/-! ## What claims say of one frame -/

/-- The block accepts an operation: PH = Idle, and no other channel's line is asserted (10_state.md R27, 60_exceptions.md
R100 (c), (d)). -/
abbrev State.Of.ready (s : State.Of σ ε) : Prop := s.phase = .idle ∧ s.peers.any Peer.asserted = false

/-- The coming exchanges answer exactly these. -/
abbrev State.Of.willAnswer (s : State.Of σ ε) (answers : List (Answer ε)) : Prop :=
  (List.range answers.length).map s.answerAt = answers

/-- Nothing but the block's own registers and ports has moved from s to t, and k exchanges were made. -/
def sameSurroundings (s t : State.Of σ ε) (k : Nat) : Prop :=
  t.sel = s.sel ∧ t.port = s.port ∧ t.peers = s.peers ∧ t.answers = s.answers.drop k ∧
    t.exchanges = s.exchanges + k

/-- From s to t exactly one frame took place and ended: its bytes and answers, one assert, one release, a response, the
line released and PH = Idle (20_memory.md R39). W is not spoken of. -/
def frameEnded (s t : State.Of σ ε) (bytes : List Byte) (answers : List (Answer ε)) (r : Response ε) : Prop :=
  t.trace = s.trace ++ [.assert s.sel] ++ xchgEvents bytes answers ++ [.release s.sel] ∧
    t.response = some r ∧ t.phase = .idle ∧ t.selAsserted = false ∧ sameSurroundings s t answers.length

/-- From s to t a frame of operation o began and never ended: no release, no response, the line asserted and PH =
Hung(o) (60_exceptions.md R99). -/
def frameHung (s t : State.Of σ ε) (o : Instr) (bytes : List Byte) (answers : List (Answer ε)) : Prop :=
  t.trace = s.trace ++ [.assert s.sel] ++ xchgEvents bytes answers ∧
    t.response = none ∧ t.phase = .hung o ∧ t.selAsserted = true ∧ sameSurroundings s t answers.length

/-- The answers of a frame in which every exchange is answered `ok`. -/
def okAnswers (b0 : Byte) (ins : List Byte) : List (Answer ε) := .ok b0 :: ins.map .ok

/-- The answers of a frame cut by a failure or by silence after some exchanges answered `ok`. -/
def cutAnswers (oks : List Byte) (last : Answer ε) : List (Answer ε) := oks.map .ok ++ [last]

/-- Operation i, in state s, is the pseudocode of its rule: one frame of these bytes. Every exchange answered: the frame
ends, the response is made of the payload's in-bytes, and W is as given. An exchange failed: the frame is cut there, the
line released, the failure the response, W kept (60_exceptions.md R97). An exchange never returned: Hung, W kept
(R99). -/
def performs (i : Instr) (s : State) (bytes : List Byte) (result : List Byte → Response TransportError)
    (wc : WidthCode) : Prop :=
  (∀ b0 ins, ins.length + 1 = bytes.length → s.willAnswer (okAnswers b0 ins) →
    ∃ t, exec i s = .next t ∧ frameEnded s t bytes (okAnswers b0 ins) (result ins) ∧ t.wc = wc) ∧
  (∀ oks e, oks.length < bytes.length → s.willAnswer (cutAnswers oks (.fail e)) →
    ∃ t, exec i s = .next t ∧ frameEnded s t bytes (cutAnswers oks (.fail e)) (.transportFailure e) ∧ t.wc = s.wc) ∧
  (∀ oks, oks.length < bytes.length → s.willAnswer (cutAnswers oks .noAnswer) →
    ∃ t, exec i s = .next t ∧ frameHung s t i bytes (cutAnswers oks .noAnswer) ∧ t.wc = s.wc)

/-! ## Host obligations about the chip's width -/

/-- After an operation and its response, may the host take W to be the chip's width? Not after a 0x10 clear
(70_reset_and_hazards.md R118), nor after a write_mode_register_1 that did not succeed (R119); again after one that did
(R116). Other operations do not touch the chip's width field. -/
def widthKnownAfter (known : Bool) (i : Instr) (r : Option (Response TransportError)) : Bool :=
  match i with
  | .clearModeRegister0 => false
  | .clearModeRegister1 => false
  | .writeModeRegister1 _ => r == some .done
  | .clearCounter => known
  | .clearStatusRegister => known
  | .readModeRegister0 => known
  | .readModeRegister1 => known
  | .readCounter => known
  | .readOtr => known
  | .readStatusRegister => known
  | .writeModeRegister0 _ => known
  | .writeDataRegister _ => known
  | .loadCounter => known
  | .loadOtr => known

/-- The operations a host issued, each with the response it met, none where the block hangs. -/
abbrev OpLog := List (Instr × Option (Response TransportError))

/-- The operations run one after another as `exec` answers, with the log of their responses; none where one does not
answer a next state. -/
def runOps : State → List Instr → Option (OpLog × State)
  | s, [] => some ([], s)
  | s, i :: rest =>
    match exec i s with
    | .next t => (runOps t rest).map fun run => ((i, t.response) :: run.1, run.2)
    | .fault _ => none
    | .refused _ => none

/-- A host's run obeys R116, R118 and R119: no width-dependent operation while the chip's width is not known.
`known` says whether it is known at the start (R116: only of a chip at its power-on state). -/
def widthSafe : Bool → OpLog → Bool
  | _, [] => true
  | known, (i, r) :: rest => (known || !i.widthDependent) && widthSafe (widthKnownAfter known i r) rest

end Sys2Proof.Machine
end

