-- ==== Sys2Proof/Certificates/Slice0/Obligations.lean ====
section
/-! DEFINITION. The statements for the provers, in the order of the spec's files. A statement speaks of every state, the
ones no run reaches included; where it needs an invariant it says so. No statement rests on a free value. -/

open Sys2Proof Sys2Proof.Machine

/-! ## Reset, the port and the step -/

/-- 70_reset_and_hazards.md R111: construction with any identifier, of any type, leaves W = 4 (WC = 00), that identifier
bound, PH = Idle, the line released, no response pending and no bus event; and reset is such a construction. -/
def Obligations.ConstructionLeavesResetState : Prop :=
  (∀ (σ ε : Type) (sel : σ) (s : State.Of σ ε), s = .construct sel → s.width = 4 ∧ s.wc = 0b00#2 ∧ s.sel = sel ∧
    s.phase = .idle ∧ s.selAsserted = false ∧ s.response = none ∧ s.trace = []) ∧
  ∃ sel : SelectId, State.reset = .construct sel

/-- 70_reset_and_hazards.md R114, and log entry 2: with nothing listed by the host the block stays as it is, after reset
(R114) and in any idle state. That the host's events stand in a list, and that a step with none of them changes nothing,
is the model's choice (log entry 2). -/
def Obligations.IdleBlockWaitsForAnOperation : Prop :=
  step State.reset = .next State.reset ∧
  ∀ s : State, s.phase = .idle → s.port = [] → step s = .next s

/-- A step takes the next command off the port and runs the operation it stands for, from its first bus event on: where
`exec` refuses the operation the step refuses it, and where `exec` answers a next state the step makes the frame's first
bus event, and while the host waits the machine's steps end exactly where `exec` does, at most seven of them. The same for
an instruction word placed with withFetchWord, which leaves the port as it was. The model's choices: log entries 1, 2
and 13. -/
def Obligations.StepRunsTheIssuedOperation : Prop :=
  (∀ (s : State) (c : Command) (rest : List (HostEvent SelectId)) (i : Instr), s.port = .issue c :: rest →
    decodeCommand c = .ok i →
    (∀ r, exec i (s.setPort rest) = .refused r → step s = .refused r) ∧
    (∀ t, exec i (s.setPort rest) = .next t → step s = .next (begin i (s.setPort rest)) ∧
      ((s.setPort rest).hostWaits = true →
        ∃ k, 1 ≤ k ∧ k ≤ 7 ∧ Host.Core.run Sys2Proof.core k s = .next t))) ∧
  ∀ (s : State) (nbits w : Nat) (i : Instr), decodeTableWord nbits w = some i →
    (∀ r, exec i s = .refused r → step (s.withFetchWord nbits w) = .refused r) ∧
    (∀ t, exec i s = .next t → step (s.withFetchWord nbits w) = .next (begin i s) ∧
      (s.hostWaits = true →
        ∃ k, 1 ≤ k ∧ k ≤ 7 ∧ Host.Core.run Sys2Proof.core k (s.withFetchWord nbits w) = .next t))

/-- 60_exceptions.md R100, (a) to (e): an unlisted operation, an operand out of range, an operation while PH is not
Idle, one while another channel's line is asserted, and a construction on a bound line are refused, each by name, by the
step and, for (c) and (d), by the operation itself. Which reason is named where two hold is DEDUCED (log entry 10). -/
def Obligations.ContractBreachesAreRefused : Prop :=
  (∀ (s : State) (name : String) (v : Option Int) (rest : List (HostEvent SelectId)),
    s.port = .issue ⟨.unlisted name, v⟩ :: rest → step s = .refused (.badCommand (.unknownOperation name))) ∧
  (∀ (s : State) (op : OpName) (v : Int) (rest : List (HostEvent SelectId)), s.port = .issue ⟨op, some v⟩ :: rest →
    ((op = .writeModeRegister0 ∨ op = .writeModeRegister1) ∧ (v < 0 ∨ 255 < v)) ∨
      (op = .writeDataRegister ∧ (v < -(2 ^ 31) ∨ 2 ^ 32 - 1 < v)) →
    step s = .refused (.badCommand .operandOutOfRange)) ∧
  (∀ (s : State) (i : Instr), s.phase ≠ .idle → exec i s = .refused .busy ∧
    ∀ c rest, s.port = .issue c :: rest → decodeCommand c = .ok i → step s = .refused .busy) ∧
  (∀ (s : State) (i : Instr) (p : Peer SelectId), s.phase = .idle → p ∈ s.peers → p.asserted = true →
    exec i s = .refused .busHeld ∧
    ∀ c rest, s.port = .issue c :: rest → decodeCommand c = .ok i → step s = .refused .busHeld) ∧
  (∀ (s : State) (sel : SelectId) (rest : List (HostEvent SelectId)), s.port = .construct sel :: rest →
    sel = s.sel ∨ sel ∈ s.peers.map Peer.sel → step s = .refused .selectBound)

/-- 30_encoding.md R61, R67: the command port accepts exactly the well-formed commands, and the command of an operation
is well-formed and stands for it. -/
def Obligations.WellFormedCommandsAreAccepted : Prop :=
  (∀ c : Command, c.wellFormed = true ↔ ∃ i, decodeCommand c = .ok i) ∧
  ∀ i : Instr, (commandOf i).wellFormed = true ∧ decodeCommand (commandOf i) = .ok i

/-- 30_encoding.md R67: a line written for an operation, with a comment or none, is read back as its command. -/
def Obligations.AssemblerReadsBackWrittenLines : Prop :=
  ∀ (i : Instr) (comment : List Char),
    parseLine (lineText i) = .ok (some (commandOf i)) ∧
    parseLine (lineText i ++ ' ' :: ';' :: comment) = .ok (some (commandOf i))

/-! ## Encoding -/

/-- 30_encoding.md R59: the op-code byte of every operation, and that every frame an operation runs begins, after its
assert, with the exchange of that byte. -/
def Obligations.EveryOperationEmitsItsTableByte : Prop :=
  (opcode .clearModeRegister0 = 0x10#8 ∧ opcode .clearModeRegister1 = 0x10#8 ∧ opcode .clearCounter = 0x01#8 ∧
    opcode .clearStatusRegister = 0x08#8 ∧ opcode .readModeRegister0 = 0x48#8 ∧ opcode .readModeRegister1 = 0x50#8 ∧
    opcode .readCounter = 0x60#8 ∧ opcode .readOtr = 0x68#8 ∧ opcode .readStatusRegister = 0x70#8 ∧
    (∀ v, opcode (.writeModeRegister0 v) = 0x88#8) ∧ (∀ v, opcode (.writeModeRegister1 v) = 0x90#8) ∧
    (∀ value, opcode (.writeDataRegister value) = 0x98#8) ∧ opcode .loadCounter = 0xE0#8 ∧
    opcode .loadOtr = 0xE8#8) ∧
  ∀ (i : Instr) (s t : State), exec i s = .next t →
    ∃ a rest, t.trace = s.trace ++ [.assert s.sel, .xchg (opcode i) a] ++ rest

/-- Frames written out from 30_encoding.md R59, R62 and R69 decode to the operations they stand for. -/
def Obligations.WrittenFramesDecode : Prop :=
  decode 0#2 [0x01#8] = .ok (.op .clearCounter) ∧
  decode 3#2 [0x10#8] = .ok .clear10 ∧
  decode 0#2 [0x70#8, 0x00#8] = .ok (.op .readStatusRegister) ∧
  decode 2#2 [0x60#8, 0x00#8, 0x00#8] = .ok (.op .readCounter) ∧
  decode 0#2 [0x90#8, 0x4D#8] = .ok (.op (.writeModeRegister1 0x4D#8)) ∧
  decode 1#2 [0x98#8, 0xAB#8, 0xCD#8, 0xEF#8] = .ok (.op (.writeDataRegister 0x00ABCDEF#32)) ∧
  decode 0#2 [0xE8#8] = .ok (.op .loadOtr) ∧
  decodeTableWord 8 0x98 = some (.writeDataRegister 0#32)

/-- Decoding the frame of any operation, at any width and whatever bytes follow, gives its meaning on the bus and
those bytes: every operand bit the frame carries is kept (30_encoding.md R54, R59, R60, R62). -/
def Obligations.DecodeInvertsEncode : Prop :=
  ∀ (c : WidthCode) (i : Instr) (rest : List Byte), decodePrefix c (encode c i ++ rest) = .ok (meaningOf c i, rest)

/-- Only frames the block emits are decoded: a byte sequence that decodes is the frame of the operation it decodes to
(30_encoding.md R54, R64). -/
def Obligations.EncodeInvertsDecode : Prop :=
  ∀ (c : WidthCode) (bytes : List Byte) (m : FrameMeaning), decode c bytes = .ok m → encode c m.representative = bytes

/-- 30_encoding.md R60: the two 0x10 clears have the same frame, it decodes to the one meaning clear (0x10), and no
other operation's frame does; two operations share an op-code only if both are of those two, or are the same operation
but for its operand. -/
def Obligations.MasterClearFrameIsShared : Prop :=
  (∀ c, encode c .clearModeRegister0 = encode c .clearModeRegister1) ∧
  (∀ c, encode c .clearModeRegister0 = [0x10#8]) ∧
  (∀ c i, decode c (encode c i) = .ok .clear10 ↔ i = .clearModeRegister0 ∨ i = .clearModeRegister1) ∧
  ∀ i j, opcode i = opcode j →
    ((i = .clearModeRegister0 ∨ i = .clearModeRegister1) ∧ (j = .clearModeRegister0 ∨ j = .clearModeRegister1)) ∨
      (i.register = j.register ∧ i.access = j.access)

/-- 30_encoding.md R64: thirteen byte values are op-codes, and a frame that begins with any other is refused by name. -/
def Obligations.UnlistedOpcodesAreRefused : Prop :=
  ((List.range 256).filter fun n => (decodePrefix 0#2 (BitVec.ofNat 8 n :: List.replicate 4 0x00#8)).isOk).length = 13 ∧
  ∀ (c : WidthCode) (b : Byte) (rest : List Byte), (∀ i, opcode i ≠ b) →
    decodePrefix c (b :: rest) = .error (.unlistedOpcode b)

/-- 30_encoding.md R55, R56: the payload count of every operation, and a frame of 1 + pay(op, W) bytes, 1 to 5. -/
def Obligations.FrameLengthFollowsFormat : Prop :=
  (∀ c i, (encode c i).length = 1 + payloadCount c i ∧ (encode c i).length ≤ 5) ∧
  (∀ c i, i.access = .clear ∨ i.access = .load → payloadCount c i = 0) ∧
  (∀ c i, i.register = .mdr0 ∨ i.register = .mdr1 ∨ i.register = .str → i.access = .read ∨ i.access = .write →
    payloadCount c i = 1) ∧
  (∀ c i, i.register = .cntr ∨ i.register = .otr ∨ i.register = .dtr → i.access = .read ∨ i.access = .write →
    payloadCount c i = widthOf c)

/-- 30_encoding.md R57, R58: the derived bit-field layout gives the op-code of the ten operations that are no clears; all
four clears have access bits 00, but of them only clear_mode_register_1 has the byte the layout gives it. -/
def Obligations.DerivedLayoutFitsTenRows : Prop :=
  opcode .clearModeRegister1 = layoutByte .clear .mdr1 ∧
  ∀ i : Instr, (i.access ≠ .clear → opcode i = layoutByte i.access i.register) ∧
    (i.access = .clear → (opcode i).extractLsb' 6 2 = 0b00#2) ∧
    (i.access = .clear → (opcode i = layoutByte .clear i.register ↔ i = .clearModeRegister1))

/-- 20_memory.md R35: which (register, access) pairs the operations reach, and no others. -/
def Obligations.ReachableRegisterAccesses : Prop :=
  ∀ (r : ChipRegister) (a : Access), (∃ i : Instr, i.register = r ∧ i.access = a) ↔
    (r, a) ∈ [(.mdr0, .read), (.mdr0, .write), (.mdr0, .clear), (.mdr1, .read), (.mdr1, .write), (.mdr1, .clear),
      (.dtr, .write), (.cntr, .read), (.cntr, .clear), (.cntr, .load), (.otr, .read), (.otr, .load), (.str, .read),
      (.str, .clear)]

/-! ## The datapath -/

/-- 10_state.md R25: the width a written MDR1 byte selects is 4 - v[1:0], and bits 7:2 do not matter; every width is 1
to 4. -/
def Obligations.WidthFieldSelectsWidth : Prop :=
  (∀ v : Byte, widthOf (widthField v) = 4 - v.toNat % 4) ∧
  (∀ u v : Byte, u.toNat % 4 = v.toNat % 4 → widthField u = widthField v) ∧
  ∀ c : WidthCode, 1 ≤ widthOf c ∧ widthOf c ≤ 4

/-- 41_read.md R79: at most four bytes are assembled most significant first, byte k weighing 2^(8*(N-1-k)). -/
def Obligations.AssemblyIsMostSignificantFirst : Prop :=
  ∀ ins : List Byte, ins.length ≤ 4 →
    (assemble ins).toNat = ∑ k : Fin ins.length, (ins.get k).toNat * 2 ^ (8 * (ins.length - 1 - k.val))

/-- 41_read.md R80, R81: for n of 1 to 4 bytes, the sign bit is bit 8n-1; the result is raw, or raw with MASK(n) above
it; as an integer raw - s*2^(8n); and the sign extension of the 8n-bit field. -/
def Obligations.SignExtensionIsTwosComplement : Prop :=
  mask 1 = 0xFFFFFF00#32 ∧ mask 2 = 0xFFFF0000#32 ∧ mask 3 = 0xFF000000#32 ∧ mask 4 = 0x00000000#32 ∧
  ∀ (n : Nat) (raw : Pattern), 1 ≤ n → n ≤ 4 → raw.toNat < 2 ^ (8 * n) →
    (signBit raw n = true ↔ 2 ^ (8 * n - 1) ≤ raw.toNat) ∧
    signExt raw n = (if signBit raw n then raw ||| mask n else raw) ∧
    (signExt raw n).toInt = raw.toNat - (if signBit raw n then 2 ^ (8 * n) else 0) ∧
    signExt raw n = (raw.setWidth (8 * n)).signExtend 32

/-- 41_read.md R84, laws 1, 2, 3 and 5: the low 8n bits are raw, every higher bit is the sign bit, results lie in the
n-byte two's-complement range, and every integer of that range is the result of exactly one byte sequence. -/
def Obligations.CounterResultLaws : Prop :=
  ∀ n : Nat, 1 ≤ n → n ≤ 4 →
    (∀ ins : List Byte, ins.length = n →
      (signExt (assemble ins) n).toNat % 2 ^ (8 * n) = (assemble ins).toNat ∧
      (∀ i, 8 * n ≤ i → i < 32 → (signExt (assemble ins) n).getLsbD i = (assemble ins).getLsbD (8 * n - 1)) ∧
      -(2 ^ (8 * n - 1) : Int) ≤ (signExt (assemble ins) n).toInt ∧
      (signExt (assemble ins) n).toInt ≤ 2 ^ (8 * n - 1) - 1) ∧
    ∀ z : Int, -(2 ^ (8 * n - 1) : Int) ≤ z → z ≤ 2 ^ (8 * n - 1) - 1 →
      ∃! ins : List Byte, ins.length = n ∧ (signExt (assemble ins) n).toInt = z

/-- 42_write.md R89, 30_encoding.md R62: the n data bytes are the digits of value in base 256 that weigh 256^(n-1) down
to 1; reassembled they are value mod 2^(8n), and the bits above are dropped. -/
def Obligations.DataBytesTruncateToLowBytes : Prop :=
  ∀ n : Nat, n ≤ 4 → ∀ value : Pattern,
    dataBytes n value = (List.range n).map (fun j => BitVec.ofNat 8 (value.toNat / 256 ^ (n - 1 - j))) ∧
    (assemble (dataBytes n value)).toNat = value.toNat % 2 ^ (8 * n) ∧
    ∀ value' : Pattern, dataBytes n value = dataBytes n value' ↔ value.toNat % 2 ^ (8 * n) = value'.toNat % 2 ^ (8 * n)

/-- 41_read.md R85: a host with counts of 32 bits or more receives the same integer. -/
def Obligations.WiderHostsReceiveTheSameInteger : Prop :=
  ∀ (m : Nat) (p : Pattern), 32 ≤ m → (hostCount m p).toInt = p.toInt

/-! ## The operations -/

/-- 40_clear.md R70 to R73: in a ready block each clear is one frame of its op-code byte alone; answered, it responds
done; W is unchanged either way. -/
def Obligations.ClearsRunOneOpcodeFrame : Prop :=
  ∀ s : State, s.ready →
    performs .clearModeRegister0 s [0x10#8] (fun _ => .done) s.wc ∧
    performs .clearModeRegister1 s [0x10#8] (fun _ => .done) s.wc ∧
    performs .clearCounter s [0x01#8] (fun _ => .done) s.wc ∧
    performs .clearStatusRegister s [0x08#8] (fun _ => .done) s.wc

/-- 43_load.md R92, R93: in a ready block each load is one frame of its op-code byte alone; answered, it responds done;
W is unchanged either way. -/
def Obligations.LoadsRunOneOpcodeFrame : Prop :=
  ∀ s : State, s.ready →
    performs .loadCounter s [0xE0#8] (fun _ => .done) s.wc ∧
    performs .loadOtr s [0xE8#8] (fun _ => .done) s.wc

/-- 41_read.md R76 to R78: each 1-byte read sends its op-code and one fill byte whatever W is, responds with the byte
received, unchanged, and does not touch W, read_mode_register_1 included. -/
def Obligations.OneByteReadsReturnTheRawByte : Prop :=
  ∀ s : State, s.ready →
    performs .readModeRegister0 s [0x48#8, 0x00#8] (fun ins => .byte (ins.headD 0)) s.wc ∧
    performs .readModeRegister1 s [0x50#8, 0x00#8] (fun ins => .byte (ins.headD 0)) s.wc ∧
    performs .readStatusRegister s [0x70#8, 0x00#8] (fun ins => .byte (ins.headD 0)) s.wc

/-- 41_read.md R82, R83: read_counter and read_OTR send their op-code and W fill bytes and respond with the W-byte
field received, most significant byte first, sign-extended to 32 bits; W is unchanged. -/
def Obligations.CounterReadsReturnTheSignedField : Prop :=
  ∀ s : State, s.ready →
    performs .readCounter s (0x60#8 :: List.replicate s.width 0x00#8)
      (fun ins => .count ((BitVec.ofNat (8 * s.width) (Nat.ofDigits 256 (ins.reverse.map BitVec.toNat))).signExtend 32))
      s.wc ∧
    performs .readOtr s (0x68#8 :: List.replicate s.width 0x00#8)
      (fun ins => .count ((BitVec.ofNat (8 * s.width) (Nat.ofDigits 256 (ins.reverse.map BitVec.toNat))).signExtend 32))
      s.wc

/-- 42_write.md R87: write_mode_register_0 sends v unchanged, responds done, and never touches W. -/
def Obligations.WriteModeRegister0SendsItsByte : Prop :=
  ∀ (s : State) (v : Byte), s.ready → performs (.writeModeRegister0 v) s [0x88#8, v] (fun _ => .done) s.wc

/-- 42_write.md R88: write_mode_register_1 sends v unchanged, responds done, and on success alone W becomes 4 - v[1:0];
a failure or a hang leaves W as it was. -/
def Obligations.WriteModeRegister1SetsTheWidthOnSuccess : Prop :=
  ∀ (s : State) (v : Byte), s.ready →
    performs (.writeModeRegister1 v) s [0x90#8, v] (fun _ => .done) (BitVec.ofNat 2 v.toNat) ∧
    widthOf (BitVec.ofNat 2 v.toNat) = 4 - v.toNat % 4

/-- 42_write.md R90: write_data_register sends the W low-order bytes of value, most significant first, responds done,
and does not touch W. -/
def Obligations.WriteDataRegisterSendsLowBytes : Prop :=
  ∀ (s : State) (value : Pattern), s.ready →
    performs (.writeDataRegister value) s
      (0x98#8 :: (List.range s.width).map (fun j => BitVec.ofNat 8 (value.toNat / 256 ^ (s.width - 1 - j))))
      (fun _ => .done) s.wc

/-- 42_write.md R91 (conditional on the chip): a successful write_data_register, load_counter and read_counter in a row,
the read's exchanges answered with exactly the bytes the write sent, give SignExt(value mod 2^(8W), W). -/
def Obligations.WrittenDataReadsBack : Prop :=
  ∀ (s s₁ s₂ s₃ : State) (value : Pattern) (b₀ b₁ b₂ : Byte) (ins₀ : List Byte),
    s.willAnswer (okAnswers b₀ ins₀ ++ [.ok b₁] ++ okAnswers b₂ (dataBytes s.width value)) →
    ins₀.length = s.width →
    exec (.writeDataRegister value) s = .next s₁ → exec .loadCounter s₁ = .next s₂ → exec .readCounter s₂ = .next s₃ →
    s₁.response = some .done ∧ s₂.response = some .done ∧
      s₃.response = some (.count ((BitVec.ofNat (8 * s.width) (value.toNat % 2 ^ (8 * s.width))).signExtend 32)) ∧
      s₃.wc = s.wc

/-! ## Every operation -/

/-- 20_memory.md R39: whatever the transport answers, an operation that runs is one frame of its table row: it began in
a ready block, met answers of its own, and ended in a response with the line released, or stands hung; the failure it
reports is the last answer's, and it is an outcome of code 1 (60_exceptions.md R95 to R99). -/
def Obligations.EveryOperationIsExactlyOneFrame : Prop :=
  ∀ (i : Instr) (s t : State), exec i s = .next t → s.ready ∧
    ((∃ b₀ ins r, ins.length = payloadCount s.wc i ∧ s.willAnswer (okAnswers b₀ ins) ∧ r.code = 0 ∧
        frameEnded s t (encode s.wc i) (okAnswers b₀ ins) r) ∨
      (∃ oks e, oks.length ≤ payloadCount s.wc i ∧ s.willAnswer (cutAnswers oks (.fail e)) ∧ t.wc = s.wc ∧
        (Response.transportFailure e).code = 1 ∧
        frameEnded s t (encode s.wc i) (cutAnswers oks (.fail e)) (.transportFailure e)) ∨
      (∃ oks, oks.length ≤ payloadCount s.wc i ∧ s.willAnswer (cutAnswers oks .noAnswer) ∧ t.wc = s.wc ∧
        frameHung s t i (encode s.wc i) (cutAnswers oks .noAnswer)))

/-- 60_exceptions.md R97: for every operation and every exchange k of its frame, a failure of that exchange ends the
frame there: no further exchange, the line released, W unchanged, the failure responded, PH = Idle. -/
def Obligations.FailureEndsTheFrameAtOnce : Prop :=
  ∀ (i : Instr) (s : State) (oks : List Byte) (e : TransportError), s.ready → oks.length ≤ payloadCount s.wc i →
    s.willAnswer (cutAnswers oks (.fail e)) →
    ∃ t, exec i s = .next t ∧ frameEnded s t (encode s.wc i) (cutAnswers oks (.fail e)) (.transportFailure e) ∧
      t.wc = s.wc

/-- 60_exceptions.md R99: for every operation and every exchange of its frame, an exchange that never returns leaves the
block in Hung with the line asserted and no response, and no step leads out of there: the block's own step is the fault
hung, and what the host does meanwhile moves nothing of the block. -/
def Obligations.HangStopsTheBlock : Prop :=
  (∀ (i : Instr) (s : State) (oks : List Byte), s.ready → oks.length ≤ payloadCount s.wc i →
    s.willAnswer (cutAnswers oks .noAnswer) →
    ∃ t, exec i s = .next t ∧ frameHung s t i (encode s.wc i) (cutAnswers oks .noAnswer) ∧ t.wc = s.wc ∧
      (s.hostWaits = true → step t = .fault .hung)) ∧
  ∀ (s : State) (o : Instr), s.phase = .hung o → (s.hostWaits = true → step s = .fault .hung) ∧
    ∀ t, step s = .next t → t = { s with port := t.port, peers := t.peers }

/-- 60_exceptions.md R104: after a failure the block is ready again with W as it was, and whatever the host issues next
runs. -/
def Obligations.FailureLeavesTheBlockReady : Prop :=
  ∀ (i : Instr) (s t : State) (e : TransportError), exec i s = .next t →
    t.response = some (.transportFailure e) → t.ready ∧ t.wc = s.wc ∧ ∀ j : Instr, ∃ u, exec j t = .next u

/-- 70_reset_and_hazards.md R124: an operation terminates, with a response and the line released, if every exchange of
its frame answers; nothing else is needed. -/
def Obligations.AnsweredOperationsTerminate : Prop :=
  ∀ (i : Instr) (s : State), s.ready → (∀ k, k ≤ payloadCount s.wc i → s.answerAt k ≠ .noAnswer) →
    ∃ t r, exec i s = .next t ∧ t.phase = .idle ∧ t.selAsserted = false ∧ t.response = some r

/-- An operation is refused exactly in a block that is not ready, and never faults (60_exceptions.md R98, R100 (c),
(d), R106). -/
def Obligations.OperationsRunExactlyWhenReady : Prop :=
  ∀ (i : Instr) (s : State), (s.ready ↔ ∃ t, exec i s = .next t) ∧ (¬s.ready ↔ ∃ r, exec i s = .refused r) ∧
    ∀ f, exec i s ≠ .fault f

/-- 20_memory.md R46: an operation adds to the bus trace exactly one assert, at most one release (none only if it hangs)
and at most 1 + pay(op, W) exchanges. -/
def Obligations.SelectIsPairedOncePerOperation : Prop :=
  ∀ (i : Instr) (s t : State), exec i s = .next t → ∃ events, t.trace = s.trace ++ events ∧
    events.countP BusEvent.isAssert = 1 ∧
    events.countP BusEvent.isRelease = (if t.phase = .hung i then 0 else 1) ∧
    1 ≤ events.countP BusEvent.isXchg ∧ events.countP BusEvent.isXchg ≤ 1 + payloadCount s.wc i

/-- 10_state.md R33: only write_mode_register_1 writes W, and only when it responds done; the three width-dependent
operations exchange W payload bytes; the other ten run the same whatever W is and leave it alone. -/
def Obligations.OnlyFourOperationsUseTheWidth : Prop :=
  (∀ (i : Instr) (s t : State), exec i s = .next t → t.wc ≠ s.wc →
    ∃ v, i = .writeModeRegister1 v ∧ t.response = some .done ∧ t.wc = BitVec.ofNat 2 v.toNat) ∧
  (∀ i : Instr, i.widthDependent = true ↔
    i = .readCounter ∨ i = .readOtr ∨ ∃ value, i = .writeDataRegister value) ∧
  (∀ (i : Instr) (c : WidthCode), i.widthDependent = true → payloadCount c i = widthOf c) ∧
  ∀ (i : Instr) (s : State) (c : WidthCode), i.widthDependent = false → (∀ v, i ≠ .writeModeRegister1 v) →
    (∀ t, exec i s = .next t → t.wc = s.wc ∧ exec i (s.setWidthCode c) = .next (t.setWidthCode c)) ∧
    (∀ r, exec i s = .refused r → exec i (s.setWidthCode c) = .refused r)

/-- 70_reset_and_hazards.md R120: right after a successful write_mode_register_1 the block is ready with the new width,
and a width-dependent operation that completes next exchanges exactly that many payload bytes. -/
def Obligations.NewWidthTakesEffectAtOnce : Prop :=
  ∀ (v : Byte) (s t : State), exec (.writeModeRegister1 v) s = .next t → t.response = some .done →
    t.ready ∧ t.width = 4 - v.toNat % 4 ∧
    ∀ (i : Instr) (u : State) (r : Response TransportError), i.widthDependent = true → exec i t = .next u → u.response = some r →
      r.code = 0 → ∃ xs, u.trace = t.trace ++ [.assert t.sel] ++ xs ++ [.release t.sel] ∧
        xs.length = 1 + (4 - v.toNat % 4) ∧ ∀ x ∈ xs, x.isXchg = true

/-- 60_exceptions.md R102: issuing one 0x10 clear for the other makes no difference on the bus, in the response or in
W, and none at all once it has ended. -/
def Obligations.MasterClearsAreIndistinguishable : Prop :=
  ∀ (s t : State), exec .clearModeRegister0 s = .next t → ∃ u, exec .clearModeRegister1 s = .next u ∧
    u.trace = t.trace ∧ u.response = t.response ∧ u.wc = t.wc ∧ t.wc = s.wc ∧ (t.phase = .idle → u = t)

/-- 30_encoding.md R66: the byte returned during the op-code exchange changes nothing but the record of that exchange in
the bus trace, for every operation; and for an operation that is no read, the bytes returned during its payload exchanges
change nothing but the records of theirs. Every other register, every out-byte and every other bus event is the same. -/
def Obligations.DiscardedInBytesDoNotMatter : Prop :=
  (∀ (i : Instr) (s t : State) (b b' : Byte) (rest : List (Answer TransportError)),
    s.answers = .ok b :: rest → exec i s = .next t →
    ∃ tail, t.trace = s.trace ++ [.assert s.sel, .xchg (opcode i) (.ok b)] ++ tail ∧
      exec i { s with answers := .ok b' :: rest }
        = .next { t with trace := s.trace ++ [.assert s.sel, .xchg (opcode i) (.ok b')] ++ tail }) ∧
  ∀ (i : Instr) (s t : State) (b b' : Byte) (ins ins' : List Byte) (rest : List (Answer TransportError)),
    i.isRead = false → ins.length = ins'.length → ins.length ≤ payloadCount s.wc i →
    s.answers = okAnswers b ins ++ rest → exec i s = .next t →
    ∃ tail, t.trace = s.trace ++ [.assert s.sel] ++ xchgEvents (encode s.wc i) (okAnswers b ins) ++ tail ∧
      exec i { s with answers := okAnswers b' ins' ++ rest }
        = .next { t with
            trace := s.trace ++ [.assert s.sel] ++ xchgEvents (encode s.wc i) (okAnswers b' ins') ++ tail }

/-! ## The sequencer -/

/-- 10_state.md R24, R26: the first bus event of an operation asserts the line, sets PH = Op(o) and loads the frame's
registers from the operation and from W at that moment. That no response is pending from then on is the model's choice
(log entry 8). -/
def Obligations.FrameRegistersAreLoadedAtTheStart : Prop :=
  ∀ (i : Instr) (s : State), (begin i s).phase = .op i ∧ (begin i s).opb = opcode i ∧
    (begin i s).count = payloadCount s.wc i ∧ (begin i s).out.length = payloadCount s.wc i ∧
    opcode i :: (begin i s).out = encode s.wc i ∧ (begin i s).acc = 0 ∧ (begin i s).selAsserted = true ∧
    (begin i s).response = none ∧ (begin i s).trace = s.trace ++ [.assert s.sel] ∧ (begin i s).wc = s.wc

/-- 92_eei_decisions.md D1, "A step is one bus event", and 10_state.md R24: while the host waits, a step in Op(o) is the
exchange of OPB, a step in Pay(o, k, n) that of OUT[k], and a step in Rel(o, res) the release of SEL with the response res.
An exchange answered `ok` goes on to the next payload byte or, after the last, to the release with the result pending; a
failure goes to the release with that failure pending; no answer goes to Hung. The model's choices: ACC collects the
payload in-bytes of reads alone (log entry 18), and the release, the update of W and the response are one step (log entry
1). -/
def Obligations.SequencerMakesOneBusEventAStep : Prop :=
  ∀ s : State, s.hostWaits = true →
    (∀ o, s.phase = .op o → ∃ t, step s = .next t ∧ t.trace = s.trace ++ [.xchg s.opb (s.answerAt 0)] ∧
      t.selAsserted = s.selAsserted ∧ t.wc = s.wc ∧
      t.phase = match s.answerAt 0 with
        | .ok _ => if s.count = 0 then .rel o (pendingResult o 0 s.acc) else .pay o 0 s.count
        | .fail e => .rel o (.transportFailure e)
        | .noAnswer => .hung o) ∧
    (∀ o k n b, s.phase = .pay o k n → s.out[k]? = some b →
      ∃ t, step s = .next t ∧ t.trace = s.trace ++ [.xchg b (s.answerAt 0)] ∧
        t.selAsserted = s.selAsserted ∧ t.wc = s.wc ∧
        match s.answerAt 0 with
        | .ok r => t.acc = (if o.isRead then accStep s.acc r else s.acc) ∧
            t.phase = if k + 1 < n then .pay o (k + 1) n else .rel o (pendingResult o n t.acc)
        | .fail e => t.phase = .rel o (.transportFailure e)
        | .noAnswer => t.phase = .hung o) ∧
    (∀ o res, s.phase = .rel o res → ∃ t, step s = .next t ∧ t.trace = s.trace ++ [.release s.sel] ∧
      t.phase = .idle ∧ t.response = some res ∧ t.selAsserted = false ∧
      t.wc = match o, res with
        | .writeModeRegister1 v, .done => BitVec.ofNat 2 v.toNat
        | _, _ => s.wc)

/-- Running an operation whole, as `exec` does, and letting the machine take its bus events one step at a time from the
assert on, while the host waits, end in the same state, whatever the transport answers (10_state.md R24, 20_memory.md
R39). That `exec` runs the whole operation is the model's choice (log entry 1). -/
def Obligations.SequencerRefinesTheFrame : Prop :=
  ∀ (i : Instr) (s : State), s.ready → s.hostWaits = true →
    ∃ k, k ≤ 6 ∧ Host.Core.run Sys2Proof.core k (begin i s) = exec i s

/-! ## Invariants of every step -/

/-- The invariant of a block holds after reset. -/
def Obligations.InvariantHoldsAtReset : Prop := State.reset.Inv

/-- The invariant of a block on its bus (State.Of.Inv) is kept by every step from every state that has it: the trace pairs
asserts and releases with no exchange while released, the line is asserted exactly while an operation is in progress, no
response stands meanwhile, OPB, N, OUT, ACC and the pending result fit the phase, and at most one line on the bus is
asserted. That no response stands meanwhile is the model's choice (log entry 8), as are the fields it speaks of for other
channels and the trace (log entries 14, 15). -/
def Obligations.EveryStepKeepsTheInvariant : Prop := ∀ s t : State, s.Inv → step s = .next t → t.Inv

/-- 10_state.md R18: no step changes the select binding, and every assert and release a step adds names it. -/
def Obligations.SelectBindingIsConstant : Prop :=
  ∀ s t : State, step s = .next t → t.sel = s.sel ∧ ∃ events, t.trace = s.trace ++ events ∧
    ∀ l, BusEvent.assert l ∈ events ∨ BusEvent.release l ∈ events → l = s.sel

/-- 10_state.md R17, 42_write.md R88: over any step of the machine W changes only as the frame of a write_mode_register_1
that succeeded ends and it responds done, and then to its operand's width field. That the update of W, the response and
the return of PH to Idle are one step, the release's, is the model's choice (log entry 1). -/
def Obligations.WidthChangesOnlyByWriteModeRegister1 : Prop :=
  ∀ s t : State, step s = .next t → t.wc ≠ s.wc → t.response = some .done ∧ t.phase = .idle ∧
    ∃ v, s.phase = .rel (.writeModeRegister1 v) .done ∧ t.wc = BitVec.ofNat 2 v.toNat

/-! ## Other channels, and the host's obligations -/

/-- 60_exceptions.md R108: another channel is constructed released, on a line not yet bound; its frame starts only while
no line on the bus is asserted, and moves its own line's level alone, to asserted; the end of its frame moves that level
alone, to released. Its events leave this block's registers and its bus trace as they are, whatever PH is. How other
channels are held is the model's choice (log entry 14). -/
def Obligations.OtherChannelsMoveOnlyTheirLines : Prop :=
  ∀ (s : State) (sel : SelectId) (rest : List (HostEvent SelectId)),
    (s.port = .construct sel :: rest → sel ≠ s.sel → sel ∉ s.peers.map Peer.sel →
      step s = .next { s with port := rest, peers := s.peers ++ [⟨sel, false⟩] }) ∧
    (s.port = .peerAssert sel :: rest → sel ∈ s.peers.map Peer.sel →
      ((s.selAsserted = true ∨ ∃ p ∈ s.peers, p.asserted = true) → step s = .refused .busHeld) ∧
      ((s.selAsserted = false ∧ ∀ p ∈ s.peers, p.asserted = false) →
        step s = .next { s with
          port := rest, peers := s.peers.map fun p => ⟨p.sel, if p.sel = sel then true else p.asserted⟩ })) ∧
    (s.port = .peerRelease sel :: rest → sel ∈ s.peers.map Peer.sel →
      step s = .next { s with
        port := rest, peers := s.peers.map fun p => ⟨p.sel, if p.sel = sel then false else p.asserted⟩ }) ∧
    (s.port = .peerAssert sel :: rest ∨ s.port = .peerRelease sel :: rest → sel ∉ s.peers.map Peer.sel →
      step s = .refused .noSuchChannel)

/-- 70_reset_and_hazards.md R116, R118, R119: a run of operations, each responding as `exec` answers, is safe (widthSafe)
exactly if before each width-dependent operation of it either a write_mode_register_1 succeeded, with no 0x10 clear and no
other write_mode_register_1 after it, or the width was known at the start and neither has been issued since. And after a
write_mode_register_1 that succeeded, with no other one since, W is the width its operand selects (R116). -/
def Obligations.WidthSafeRunsResynchronise : Prop :=
  ∀ (s t : State) (ops : List Instr) (log : OpLog), runOps s ops = some (log, t) →
    (∀ known : Bool, widthSafe known log = true ↔
      ∀ (pre post : OpLog) (i : Instr) (r : Option (Response TransportError)), log = pre ++ (i, r) :: post →
        i.widthDependent = true →
        (∃ pre₁ v pre₂, pre = pre₁ ++ (.writeModeRegister1 v, some .done) :: pre₂ ∧
          ∀ x ∈ pre₂, x.1 ≠ .clearModeRegister0 ∧ x.1 ≠ .clearModeRegister1 ∧ ∀ u, x.1 ≠ .writeModeRegister1 u) ∨
        (known = true ∧
          ∀ x ∈ pre, x.1 ≠ .clearModeRegister0 ∧ x.1 ≠ .clearModeRegister1 ∧ ∀ u, x.1 ≠ .writeModeRegister1 u)) ∧
    ∀ (pre post : OpLog) (v : Byte), log = pre ++ (.writeModeRegister1 v, some .done) :: post →
      (∀ x ∈ post, ∀ u, x.1 ≠ .writeModeRegister1 u) → t.width = 4 - v.toNat % 4

/-! ## The open types -/

/-- 92_eei_decisions.md D19, 00_scope.md R7: the step is the same function whatever the types of select identifiers and
failure values are. Renaming them, distinct identifiers to distinct ones, before a step or after it gives the same
outcome, as long as the transport's next answer is listed in the state. -/
def Obligations.OpenTypesAreArguments : Prop :=
  ∀ (σ ε : Type) [DecidableEq σ] (f : σ → SelectId) (g : ε → TransportError) (s : State.Of σ ε),
    Function.Injective f → s.answers ≠ [] → step (s.rename f g) = renameResult f g (advance s)
end

