-- ==== Sys2Proof/Laws/Decode.lean ====
section
/-! SUPPORT. The small lemmas of widths, payloads and assembly. -/

namespace Sys2Proof

/-- A width is never below 1 byte (20_memory.md R44). -/
theorem widthOf_pos (c : WidthCode) : 1 ≤ widthOf c := by
  have := c.isLt
  unfold widthOf
  omega

/-- A width is never above 4 bytes (20_memory.md R44). -/
theorem widthOf_le (c : WidthCode) : widthOf c ≤ 4 := by
  unfold widthOf
  omega

@[simp] theorem length_dataBytes (n : Nat) (value : Pattern) : (dataBytes n value).length = n := by
  simp [dataBytes]

/-- A frame has as many payload out-bytes as its payload count (30_encoding.md R55). -/
@[simp] theorem length_outBytes (c : WidthCode) (i : Instr) : (outBytes c i).length = payloadCount c i := by
  cases i <;> simp [outBytes, payloadCount, Instr.format, Format.payload]

/-- No payload is longer than `MAX_PAYLOAD` (00_scope.md R7). -/
theorem payloadCount_le (c : WidthCode) (i : Instr) : payloadCount c i ≤ Config.maxPayload := by
  have := widthOf_le c
  cases i <;> simp only [payloadCount, Instr.format, Format.payload, Config.maxPayload] <;> omega

/-- While the accumulator holds at most three bytes, one more byte is a digit of base 256 (41_read.md R79). -/
theorem toNat_accStep (acc : Pattern) (b : Byte) (h : acc.toNat < 256 ^ 3) :
    (accStep acc b).toNat = acc.toNat * 256 + b.toNat := by
  have hb := b.isLt
  have hshift : (acc <<< 8).toNat = acc.toNat * 256 := by
    rw [BitVec.toNat_shiftLeft, Nat.shiftLeft_eq, Nat.mod_eq_of_lt (by omega)]
  have hb' : (b.setWidth 32).toNat = b.toNat := by
    rw [BitVec.toNat_setWidth, Nat.mod_eq_of_lt (by omega)]
  rw [accStep, BitVec.toNat_or, hshift, hb', show acc.toNat * 256 = acc.toNat <<< 8 by rw [Nat.shiftLeft_eq],
    ← Nat.shiftLeft_add_eq_or_of_lt (by omega), Nat.shiftLeft_eq]

end Sys2Proof
end

