-- ==== Sys2Proof/Laws/State.lean ====
section
/-! SUPPORT. One lemma per field per update of State, so that no later proof unfolds a record update. -/

namespace Sys2Proof.Machine

variable (s : State.Of σ ε)

/-! ## setPhase -/

@[simp] theorem State.Of.setPhase_wc (p : Phase ε) : (s.setPhase p).wc = s.wc := rfl
@[simp] theorem State.Of.setPhase_sel (p : Phase ε) : (s.setPhase p).sel = s.sel := rfl
@[simp] theorem State.Of.setPhase_phase (p : Phase ε) : (s.setPhase p).phase = p := rfl
@[simp] theorem State.Of.setPhase_opb (p : Phase ε) : (s.setPhase p).opb = s.opb := rfl
@[simp] theorem State.Of.setPhase_count (p : Phase ε) : (s.setPhase p).count = s.count := rfl
@[simp] theorem State.Of.setPhase_out (p : Phase ε) : (s.setPhase p).out = s.out := rfl
@[simp] theorem State.Of.setPhase_acc (p : Phase ε) : (s.setPhase p).acc = s.acc := rfl
@[simp] theorem State.Of.setPhase_selAsserted (p : Phase ε) : (s.setPhase p).selAsserted = s.selAsserted := rfl
@[simp] theorem State.Of.setPhase_response (p : Phase ε) : (s.setPhase p).response = s.response := rfl
@[simp] theorem State.Of.setPhase_port (p : Phase ε) : (s.setPhase p).port = s.port := rfl
@[simp] theorem State.Of.setPhase_answers (p : Phase ε) : (s.setPhase p).answers = s.answers := rfl
@[simp] theorem State.Of.setPhase_peers (p : Phase ε) : (s.setPhase p).peers = s.peers := rfl
@[simp] theorem State.Of.setPhase_exchanges (p : Phase ε) : (s.setPhase p).exchanges = s.exchanges := rfl
@[simp] theorem State.Of.setPhase_trace (p : Phase ε) : (s.setPhase p).trace = s.trace := rfl

/-! ## loadFrame -/

@[simp] theorem State.Of.loadFrame_wc (o : Instr) (opb : Byte) (outs : List Byte) : (s.loadFrame o opb outs).wc = s.wc := rfl
@[simp] theorem State.Of.loadFrame_sel (o : Instr) (opb : Byte) (outs : List Byte) : (s.loadFrame o opb outs).sel = s.sel := rfl
@[simp] theorem State.Of.loadFrame_phase (o : Instr) (opb : Byte) (outs : List Byte) : (s.loadFrame o opb outs).phase = .op o := rfl
@[simp] theorem State.Of.loadFrame_opb (o : Instr) (opb : Byte) (outs : List Byte) : (s.loadFrame o opb outs).opb = opb := rfl
@[simp] theorem State.Of.loadFrame_count (o : Instr) (opb : Byte) (outs : List Byte) : (s.loadFrame o opb outs).count = outs.length := rfl
@[simp] theorem State.Of.loadFrame_out (o : Instr) (opb : Byte) (outs : List Byte) : (s.loadFrame o opb outs).out = outs := rfl
@[simp] theorem State.Of.loadFrame_acc (o : Instr) (opb : Byte) (outs : List Byte) : (s.loadFrame o opb outs).acc = 0#32 := rfl
@[simp] theorem State.Of.loadFrame_selAsserted (o : Instr) (opb : Byte) (outs : List Byte) : (s.loadFrame o opb outs).selAsserted = s.selAsserted := rfl
@[simp] theorem State.Of.loadFrame_response (o : Instr) (opb : Byte) (outs : List Byte) : (s.loadFrame o opb outs).response = none := rfl
@[simp] theorem State.Of.loadFrame_port (o : Instr) (opb : Byte) (outs : List Byte) : (s.loadFrame o opb outs).port = s.port := rfl
@[simp] theorem State.Of.loadFrame_answers (o : Instr) (opb : Byte) (outs : List Byte) : (s.loadFrame o opb outs).answers = s.answers := rfl
@[simp] theorem State.Of.loadFrame_peers (o : Instr) (opb : Byte) (outs : List Byte) : (s.loadFrame o opb outs).peers = s.peers := rfl
@[simp] theorem State.Of.loadFrame_exchanges (o : Instr) (opb : Byte) (outs : List Byte) : (s.loadFrame o opb outs).exchanges = s.exchanges := rfl
@[simp] theorem State.Of.loadFrame_trace (o : Instr) (opb : Byte) (outs : List Byte) : (s.loadFrame o opb outs).trace = s.trace := rfl

/-! ## assertSelect -/

@[simp] theorem State.Of.assertSelect_wc : s.assertSelect.wc = s.wc := rfl
@[simp] theorem State.Of.assertSelect_sel : s.assertSelect.sel = s.sel := rfl
@[simp] theorem State.Of.assertSelect_phase : s.assertSelect.phase = s.phase := rfl
@[simp] theorem State.Of.assertSelect_opb : s.assertSelect.opb = s.opb := rfl
@[simp] theorem State.Of.assertSelect_count : s.assertSelect.count = s.count := rfl
@[simp] theorem State.Of.assertSelect_out : s.assertSelect.out = s.out := rfl
@[simp] theorem State.Of.assertSelect_acc : s.assertSelect.acc = s.acc := rfl
@[simp] theorem State.Of.assertSelect_selAsserted : s.assertSelect.selAsserted = true := rfl
@[simp] theorem State.Of.assertSelect_response : s.assertSelect.response = s.response := rfl
@[simp] theorem State.Of.assertSelect_port : s.assertSelect.port = s.port := rfl
@[simp] theorem State.Of.assertSelect_answers : s.assertSelect.answers = s.answers := rfl
@[simp] theorem State.Of.assertSelect_peers : s.assertSelect.peers = s.peers := rfl
@[simp] theorem State.Of.assertSelect_exchanges : s.assertSelect.exchanges = s.exchanges := rfl
@[simp] theorem State.Of.assertSelect_trace : s.assertSelect.trace = s.trace ++ [.assert s.sel] := rfl

/-! ## releaseSelect -/

@[simp] theorem State.Of.releaseSelect_wc : s.releaseSelect.wc = s.wc := rfl
@[simp] theorem State.Of.releaseSelect_sel : s.releaseSelect.sel = s.sel := rfl
@[simp] theorem State.Of.releaseSelect_phase : s.releaseSelect.phase = s.phase := rfl
@[simp] theorem State.Of.releaseSelect_opb : s.releaseSelect.opb = s.opb := rfl
@[simp] theorem State.Of.releaseSelect_count : s.releaseSelect.count = s.count := rfl
@[simp] theorem State.Of.releaseSelect_out : s.releaseSelect.out = s.out := rfl
@[simp] theorem State.Of.releaseSelect_acc : s.releaseSelect.acc = s.acc := rfl
@[simp] theorem State.Of.releaseSelect_selAsserted : s.releaseSelect.selAsserted = false := rfl
@[simp] theorem State.Of.releaseSelect_response : s.releaseSelect.response = s.response := rfl
@[simp] theorem State.Of.releaseSelect_port : s.releaseSelect.port = s.port := rfl
@[simp] theorem State.Of.releaseSelect_answers : s.releaseSelect.answers = s.answers := rfl
@[simp] theorem State.Of.releaseSelect_peers : s.releaseSelect.peers = s.peers := rfl
@[simp] theorem State.Of.releaseSelect_exchanges : s.releaseSelect.exchanges = s.exchanges := rfl
@[simp] theorem State.Of.releaseSelect_trace : s.releaseSelect.trace = s.trace ++ [.release s.sel] := rfl

/-! ## exchanged -/

@[simp] theorem State.Of.exchanged_wc (b : Byte) (a : Answer ε) : (s.exchanged b a).wc = s.wc := rfl
@[simp] theorem State.Of.exchanged_sel (b : Byte) (a : Answer ε) : (s.exchanged b a).sel = s.sel := rfl
@[simp] theorem State.Of.exchanged_phase (b : Byte) (a : Answer ε) : (s.exchanged b a).phase = s.phase := rfl
@[simp] theorem State.Of.exchanged_opb (b : Byte) (a : Answer ε) : (s.exchanged b a).opb = s.opb := rfl
@[simp] theorem State.Of.exchanged_count (b : Byte) (a : Answer ε) : (s.exchanged b a).count = s.count := rfl
@[simp] theorem State.Of.exchanged_out (b : Byte) (a : Answer ε) : (s.exchanged b a).out = s.out := rfl
@[simp] theorem State.Of.exchanged_acc (b : Byte) (a : Answer ε) : (s.exchanged b a).acc = s.acc := rfl
@[simp] theorem State.Of.exchanged_selAsserted (b : Byte) (a : Answer ε) : (s.exchanged b a).selAsserted = s.selAsserted := rfl
@[simp] theorem State.Of.exchanged_response (b : Byte) (a : Answer ε) : (s.exchanged b a).response = s.response := rfl
@[simp] theorem State.Of.exchanged_port (b : Byte) (a : Answer ε) : (s.exchanged b a).port = s.port := rfl
@[simp] theorem State.Of.exchanged_answers (b : Byte) (a : Answer ε) : (s.exchanged b a).answers = s.answers.tail := rfl
@[simp] theorem State.Of.exchanged_peers (b : Byte) (a : Answer ε) : (s.exchanged b a).peers = s.peers := rfl
@[simp] theorem State.Of.exchanged_exchanges (b : Byte) (a : Answer ε) : (s.exchanged b a).exchanges = s.exchanges + 1 := rfl
@[simp] theorem State.Of.exchanged_trace (b : Byte) (a : Answer ε) : (s.exchanged b a).trace = s.trace ++ [.xchg b a] := rfl

/-! ## collect -/

@[simp] theorem State.Of.collect_wc (o : Instr) (b : Byte) : (s.collect o b).wc = s.wc := rfl
@[simp] theorem State.Of.collect_sel (o : Instr) (b : Byte) : (s.collect o b).sel = s.sel := rfl
@[simp] theorem State.Of.collect_phase (o : Instr) (b : Byte) : (s.collect o b).phase = s.phase := rfl
@[simp] theorem State.Of.collect_opb (o : Instr) (b : Byte) : (s.collect o b).opb = s.opb := rfl
@[simp] theorem State.Of.collect_count (o : Instr) (b : Byte) : (s.collect o b).count = s.count := rfl
@[simp] theorem State.Of.collect_out (o : Instr) (b : Byte) : (s.collect o b).out = s.out := rfl
@[simp] theorem State.Of.collect_acc (o : Instr) (b : Byte) : (s.collect o b).acc = if o.isRead then accStep s.acc b else s.acc := rfl
@[simp] theorem State.Of.collect_selAsserted (o : Instr) (b : Byte) : (s.collect o b).selAsserted = s.selAsserted := rfl
@[simp] theorem State.Of.collect_response (o : Instr) (b : Byte) : (s.collect o b).response = s.response := rfl
@[simp] theorem State.Of.collect_port (o : Instr) (b : Byte) : (s.collect o b).port = s.port := rfl
@[simp] theorem State.Of.collect_answers (o : Instr) (b : Byte) : (s.collect o b).answers = s.answers := rfl
@[simp] theorem State.Of.collect_peers (o : Instr) (b : Byte) : (s.collect o b).peers = s.peers := rfl
@[simp] theorem State.Of.collect_exchanges (o : Instr) (b : Byte) : (s.collect o b).exchanges = s.exchanges := rfl
@[simp] theorem State.Of.collect_trace (o : Instr) (b : Byte) : (s.collect o b).trace = s.trace := rfl

/-! ## setWidthCode -/

@[simp] theorem State.Of.setWidthCode_wc (c : WidthCode) : (s.setWidthCode c).wc = c := rfl
@[simp] theorem State.Of.setWidthCode_sel (c : WidthCode) : (s.setWidthCode c).sel = s.sel := rfl
@[simp] theorem State.Of.setWidthCode_phase (c : WidthCode) : (s.setWidthCode c).phase = s.phase := rfl
@[simp] theorem State.Of.setWidthCode_opb (c : WidthCode) : (s.setWidthCode c).opb = s.opb := rfl
@[simp] theorem State.Of.setWidthCode_count (c : WidthCode) : (s.setWidthCode c).count = s.count := rfl
@[simp] theorem State.Of.setWidthCode_out (c : WidthCode) : (s.setWidthCode c).out = s.out := rfl
@[simp] theorem State.Of.setWidthCode_acc (c : WidthCode) : (s.setWidthCode c).acc = s.acc := rfl
@[simp] theorem State.Of.setWidthCode_selAsserted (c : WidthCode) : (s.setWidthCode c).selAsserted = s.selAsserted := rfl
@[simp] theorem State.Of.setWidthCode_response (c : WidthCode) : (s.setWidthCode c).response = s.response := rfl
@[simp] theorem State.Of.setWidthCode_port (c : WidthCode) : (s.setWidthCode c).port = s.port := rfl
@[simp] theorem State.Of.setWidthCode_answers (c : WidthCode) : (s.setWidthCode c).answers = s.answers := rfl
@[simp] theorem State.Of.setWidthCode_peers (c : WidthCode) : (s.setWidthCode c).peers = s.peers := rfl
@[simp] theorem State.Of.setWidthCode_exchanges (c : WidthCode) : (s.setWidthCode c).exchanges = s.exchanges := rfl
@[simp] theorem State.Of.setWidthCode_trace (c : WidthCode) : (s.setWidthCode c).trace = s.trace := rfl

/-! ## respond -/

@[simp] theorem State.Of.respond_wc (r : Response ε) : (s.respond r).wc = s.wc := rfl
@[simp] theorem State.Of.respond_sel (r : Response ε) : (s.respond r).sel = s.sel := rfl
@[simp] theorem State.Of.respond_phase (r : Response ε) : (s.respond r).phase = .idle := rfl
@[simp] theorem State.Of.respond_opb (r : Response ε) : (s.respond r).opb = Config.freeOpb s.exchanges := rfl
@[simp] theorem State.Of.respond_count (r : Response ε) : (s.respond r).count = Config.freeCount s.exchanges := rfl
@[simp] theorem State.Of.respond_out (r : Response ε) : (s.respond r).out = Config.freeOut s.exchanges := rfl
@[simp] theorem State.Of.respond_acc (r : Response ε) : (s.respond r).acc = Config.freeAcc s.exchanges := rfl
@[simp] theorem State.Of.respond_selAsserted (r : Response ε) : (s.respond r).selAsserted = s.selAsserted := rfl
@[simp] theorem State.Of.respond_response (r : Response ε) : (s.respond r).response = some r := rfl
@[simp] theorem State.Of.respond_port (r : Response ε) : (s.respond r).port = s.port := rfl
@[simp] theorem State.Of.respond_answers (r : Response ε) : (s.respond r).answers = s.answers := rfl
@[simp] theorem State.Of.respond_peers (r : Response ε) : (s.respond r).peers = s.peers := rfl
@[simp] theorem State.Of.respond_exchanges (r : Response ε) : (s.respond r).exchanges = s.exchanges := rfl
@[simp] theorem State.Of.respond_trace (r : Response ε) : (s.respond r).trace = s.trace := rfl

/-! ## setPort -/

@[simp] theorem State.Of.setPort_wc (p : List (HostEvent σ)) : (s.setPort p).wc = s.wc := rfl
@[simp] theorem State.Of.setPort_sel (p : List (HostEvent σ)) : (s.setPort p).sel = s.sel := rfl
@[simp] theorem State.Of.setPort_phase (p : List (HostEvent σ)) : (s.setPort p).phase = s.phase := rfl
@[simp] theorem State.Of.setPort_opb (p : List (HostEvent σ)) : (s.setPort p).opb = s.opb := rfl
@[simp] theorem State.Of.setPort_count (p : List (HostEvent σ)) : (s.setPort p).count = s.count := rfl
@[simp] theorem State.Of.setPort_out (p : List (HostEvent σ)) : (s.setPort p).out = s.out := rfl
@[simp] theorem State.Of.setPort_acc (p : List (HostEvent σ)) : (s.setPort p).acc = s.acc := rfl
@[simp] theorem State.Of.setPort_selAsserted (p : List (HostEvent σ)) : (s.setPort p).selAsserted = s.selAsserted := rfl
@[simp] theorem State.Of.setPort_response (p : List (HostEvent σ)) : (s.setPort p).response = s.response := rfl
@[simp] theorem State.Of.setPort_port (p : List (HostEvent σ)) : (s.setPort p).port = p := rfl
@[simp] theorem State.Of.setPort_answers (p : List (HostEvent σ)) : (s.setPort p).answers = s.answers := rfl
@[simp] theorem State.Of.setPort_peers (p : List (HostEvent σ)) : (s.setPort p).peers = s.peers := rfl
@[simp] theorem State.Of.setPort_exchanges (p : List (HostEvent σ)) : (s.setPort p).exchanges = s.exchanges := rfl
@[simp] theorem State.Of.setPort_trace (p : List (HostEvent σ)) : (s.setPort p).trace = s.trace := rfl

/-! ## setPeers -/

@[simp] theorem State.Of.setPeers_wc (p : List (Peer σ)) : (s.setPeers p).wc = s.wc := rfl
@[simp] theorem State.Of.setPeers_sel (p : List (Peer σ)) : (s.setPeers p).sel = s.sel := rfl
@[simp] theorem State.Of.setPeers_phase (p : List (Peer σ)) : (s.setPeers p).phase = s.phase := rfl
@[simp] theorem State.Of.setPeers_opb (p : List (Peer σ)) : (s.setPeers p).opb = s.opb := rfl
@[simp] theorem State.Of.setPeers_count (p : List (Peer σ)) : (s.setPeers p).count = s.count := rfl
@[simp] theorem State.Of.setPeers_out (p : List (Peer σ)) : (s.setPeers p).out = s.out := rfl
@[simp] theorem State.Of.setPeers_acc (p : List (Peer σ)) : (s.setPeers p).acc = s.acc := rfl
@[simp] theorem State.Of.setPeers_selAsserted (p : List (Peer σ)) : (s.setPeers p).selAsserted = s.selAsserted := rfl
@[simp] theorem State.Of.setPeers_response (p : List (Peer σ)) : (s.setPeers p).response = s.response := rfl
@[simp] theorem State.Of.setPeers_port (p : List (Peer σ)) : (s.setPeers p).port = s.port := rfl
@[simp] theorem State.Of.setPeers_answers (p : List (Peer σ)) : (s.setPeers p).answers = s.answers := rfl
@[simp] theorem State.Of.setPeers_peers (p : List (Peer σ)) : (s.setPeers p).peers = p := rfl
@[simp] theorem State.Of.setPeers_exchanges (p : List (Peer σ)) : (s.setPeers p).exchanges = s.exchanges := rfl
@[simp] theorem State.Of.setPeers_trace (p : List (Peer σ)) : (s.setPeers p).trace = s.trace := rfl

end Sys2Proof.Machine
end

