-- ==== Sys2Proof/Laws/Ops.lean ====
section
/-! SUPPORT. What each shared operation can do, said once: the exchange, the payload, the frame, the shape of an
operation, and the uniform reading of exec. -/

namespace Sys2Proof.Machine

variable {σ ε : Type}

/-! ## Two updates the laws speak in -/

/-- The bus events of a run of exchanges. -/
def State.Of.afterXchgs (bytes : List Byte) (answers : List (Answer ε)) (s : State.Of σ ε) : State.Of σ ε :=
  { s with
    answers := s.answers.drop answers.length
    exchanges := s.exchanges + answers.length
    trace := s.trace ++ xchgEvents bytes answers }

/-- The in-bytes of a run of payload exchanges. -/
def State.Of.collectAll (o : Instr) (ins : List Byte) (s : State.Of σ ε) : State.Of σ ε :=
  { s with acc := if o.isRead then ins.foldl accStep s.acc else s.acc }

/-- A state with only its step-by-step inputs and history named: what a frame leaves before its end. -/
def State.Of.inFrame (o : Instr) (opb : Byte) (outs : List Byte) (answers : List (Answer ε)) (ins : List Byte)
    (s : State.Of σ ε) : State.Of σ ε :=
  ((openFrame o opb outs s).afterXchgs (opb :: outs) answers).collectAll o ins

section

variable (s : State.Of σ ε) (o : Instr) (opb : Byte) (outs : List Byte) (answers : List (Answer ε)) (ins : List Byte)

@[simp] theorem State.Of.inFrame_wc : (s.inFrame o opb outs answers ins).wc = s.wc := rfl
@[simp] theorem State.Of.inFrame_sel : (s.inFrame o opb outs answers ins).sel = s.sel := rfl
@[simp] theorem State.Of.inFrame_phase : (s.inFrame o opb outs answers ins).phase = .op o := rfl
@[simp] theorem State.Of.inFrame_opb : (s.inFrame o opb outs answers ins).opb = opb := rfl
@[simp] theorem State.Of.inFrame_count : (s.inFrame o opb outs answers ins).count = outs.length := rfl
@[simp] theorem State.Of.inFrame_out : (s.inFrame o opb outs answers ins).out = outs := rfl
@[simp] theorem State.Of.inFrame_acc :
    (s.inFrame o opb outs answers ins).acc = if o.isRead then assemble ins else 0#32 := rfl
@[simp] theorem State.Of.inFrame_selAsserted : (s.inFrame o opb outs answers ins).selAsserted = true := rfl
@[simp] theorem State.Of.inFrame_response : (s.inFrame o opb outs answers ins).response = none := rfl
@[simp] theorem State.Of.inFrame_port : (s.inFrame o opb outs answers ins).port = s.port := rfl
@[simp] theorem State.Of.inFrame_answers :
    (s.inFrame o opb outs answers ins).answers = s.answers.drop answers.length := rfl
@[simp] theorem State.Of.inFrame_peers : (s.inFrame o opb outs answers ins).peers = s.peers := rfl
@[simp] theorem State.Of.inFrame_exchanges :
    (s.inFrame o opb outs answers ins).exchanges = s.exchanges + answers.length := rfl
@[simp] theorem State.Of.inFrame_trace :
    (s.inFrame o opb outs answers ins).trace
      = s.trace ++ [.assert s.sel] ++ xchgEvents (opb :: outs) answers := rfl

end

/-! ## Answers -/

/-- The answers to come depend only on the listed ones and on the exchange count. -/
theorem State.Of.answerAt_of_drop {s t : State.Of σ ε} {j : Nat} (ha : t.answers = s.answers.drop j)
    (hx : t.exchanges = s.exchanges + j) (k : Nat) : t.answerAt k = s.answerAt (j + k) := by
  simp [State.Of.answerAt, ha, hx, Nat.add_assoc]

/-- After one exchange the next answers are the later ones. -/
@[simp] theorem State.Of.answerAt_exchanged (b : Byte) (a : Answer ε) (s : State.Of σ ε) (k : Nat) :
    (s.exchanged b a).answerAt k = s.answerAt (k + 1) := by
  rw [State.Of.answerAt_of_drop (j := 1) (s := s) (by simp) rfl, Nat.add_comm]

@[simp] theorem State.Of.answerAt_collect (o : Instr) (b : Byte) (s : State.Of σ ε) (k : Nat) :
    (s.collect o b).answerAt k = s.answerAt k := rfl

@[simp] theorem answerAt_openFrame (o : Instr) (opb : Byte) (outs : List Byte) (s : State.Of σ ε) (k : Nat) :
    (openFrame o opb outs s).answerAt k = s.answerAt k := rfl

/-- The coming answers, one at a time. -/
theorem State.Of.willAnswer_cons {s t : State.Of σ ε} {a : (Answer ε)} {as : List (Answer ε)}
    (ht : ∀ k, t.answerAt k = s.answerAt (k + 1)) :
    s.willAnswer (a :: as) ↔ s.answerAt 0 = a ∧ t.willAnswer as := by
  simp only [State.Of.willAnswer, List.length_cons, List.range_succ_eq_map, List.map_cons, List.map_map,
    List.cons.injEq]
  have : s.answerAt ∘ Nat.succ = t.answerAt := funext fun k => (ht k).symm
  rw [this]

/-- Two states with the same coming answers. -/
theorem State.Of.willAnswer_congr {s t : State.Of σ ε} (h : ∀ k, t.answerAt k = s.answerAt k) (as : List (Answer ε)) :
    t.willAnswer as ↔ s.willAnswer as := by
  simp [State.Of.willAnswer, funext h]

/-- Some run of `ok` answers comes next, either n of them, or fewer and then a failure or silence. -/
theorem State.Of.answers_cases (n : Nat) : ∀ s : State.Of σ ε,
    (∃ ins : List Byte, ins.length = n ∧ s.willAnswer (ins.map .ok)) ∨
    (∃ (ins : List Byte) (e : ε), ins.length < n ∧ s.willAnswer (cutAnswers ins (.fail e))) ∨
    (∃ ins : List Byte, ins.length < n ∧ s.willAnswer (cutAnswers ins .noAnswer)) := by
  induction n with
  | zero => exact fun s => .inl ⟨[], rfl, rfl⟩
  | succ n ih =>
    intro s
    have step := @State.Of.willAnswer_cons σ ε s (s.exchanged 0#8 (s.answerAt 0))
    cases h0 : s.answerAt 0 with
    | ok b =>
      have cons : ∀ as, (s.exchanged 0#8 (s.answerAt 0)).willAnswer as → s.willAnswer (.ok b :: as) :=
        fun as h => (step fun k => by simp).mpr ⟨h0, h⟩
      obtain ⟨ins, hl, hw⟩ | ⟨ins, e, hl, hw⟩ | ⟨ins, hl, hw⟩ := ih (s.exchanged 0#8 (s.answerAt 0))
      · exact .inl ⟨b :: ins, by simp [hl], cons _ hw⟩
      · exact .inr (.inl ⟨b :: ins, e, by simp [hl], cons _ hw⟩)
      · exact .inr (.inr ⟨b :: ins, by simp [hl], cons _ hw⟩)
    | fail e => exact .inr (.inl ⟨[], e, by simp, by simp [State.Of.willAnswer, cutAnswers, h0]⟩)
    | noAnswer => exact .inr (.inr ⟨[], by simp, by simp [State.Of.willAnswer, cutAnswers, h0]⟩)

/-! ## The exchange and the payload -/

/-- One answered exchange before a cut run. -/
theorem cutAnswers_cons (b : Byte) (bs : List Byte) (a : Answer ε) :
    cutAnswers (b :: bs) a = .ok b :: cutAnswers bs a := rfl

/-- Byte b was sent and the next answer taken, and nothing else. -/
theorem xchg_eq (b : Byte) (s : State.Of σ ε) : xchg b s = (s.answerAt 0, s.exchanged b (s.answerAt 0)) := rfl

/-- One exchange more at the front of a run. -/
theorem State.Of.afterXchgs_cons (o : Instr) (b r : Byte) (bytes : List Byte) (as : List (Answer ε)) (ins : List Byte)
    (s : State.Of σ ε) :
    (((s.exchanged b (.ok r)).collect o r).afterXchgs bytes as).collectAll o ins
      = (s.afterXchgs (b :: bytes) (.ok r :: as)).collectAll o (r :: ins) := by
  cases ho : o.isRead <;>
    simp [State.Of.afterXchgs, State.Of.collectAll, State.Of.exchanged, State.Of.collect, xchgEvents, ho, Nat.add_assoc,
      Nat.add_comm 1]

/-- A run of one exchange. -/
theorem State.Of.afterXchgs_one (o : Instr) (b : Byte) (bytes : List Byte) (a : Answer ε) (s : State.Of σ ε) :
    s.exchanged b a = (s.afterXchgs (b :: bytes) [a]).collectAll o [] := by
  cases ho : o.isRead <;>
    simp [State.Of.afterXchgs, State.Of.collectAll, State.Of.exchanged, xchgEvents, ho]

/-- Every payload exchange answered: all bytes sent, all in-bytes returned. -/
theorem payload_of_ok (o : Instr) (outs : List Byte) : ∀ (ins : List Byte) (s : State.Of σ ε),
    ins.length = outs.length → s.willAnswer (ins.map .ok) →
    payload o outs s = (.ok ins, (s.afterXchgs outs (ins.map .ok)).collectAll o ins) := by
  induction outs with
  | nil =>
    intro ins s hl _
    obtain rfl := List.length_eq_zero_iff.mp hl
    simp [payload, State.Of.afterXchgs, State.Of.collectAll, xchgEvents]
  | cons b outs ih =>
    intro ins s hl hw
    cases ins with
    | nil => cases hl
    | cons r ins =>
      obtain ⟨h0, hrest⟩ :=
        (State.Of.willAnswer_cons (t := (s.exchanged b (.ok r)).collect o r) (fun k => by simp)).mp hw
      rw [payload, xchg_eq, h0]
      simp only [ih ins _ (by simpa using hl) hrest, State.Of.afterXchgs_cons, List.map_cons]

/-- A payload exchange failed: the earlier ones and it took place, nothing after it. -/
theorem payload_of_fail (o : Instr) (e : ε) (outs : List Byte) : ∀ (ins : List Byte) (s : State.Of σ ε),
    ins.length < outs.length → s.willAnswer (cutAnswers ins (.fail e)) →
    payload o outs s = (.fail e, (s.afterXchgs outs (cutAnswers ins (.fail e))).collectAll o ins) := by
  induction outs with
  | nil => exact fun _ _ hl => absurd hl (Nat.not_lt_zero _)
  | cons b outs ih =>
    intro ins s hl hw
    cases ins with
    | nil =>
      have h0 : s.answerAt 0 = .fail e := by simpa [State.Of.willAnswer, cutAnswers] using hw
      rw [payload, xchg_eq, h0]
      simp only [State.Of.afterXchgs_one o b outs, cutAnswers, List.map_nil, List.nil_append]
    | cons r ins =>
      obtain ⟨h0, hrest⟩ :=
        (State.Of.willAnswer_cons (t := (s.exchanged b (.ok r)).collect o r) (fun k => by simp)).mp hw
      rw [payload, xchg_eq, h0]
      simp only [ih ins _ (by simpa using hl) hrest, State.Of.afterXchgs_cons, cutAnswers_cons]

/-- A payload exchange never returned: the earlier ones took place and it began, nothing after it. -/
theorem payload_of_hang (o : Instr) (outs : List Byte) : ∀ (ins : List Byte) (s : State.Of σ ε),
    ins.length < outs.length → s.willAnswer (cutAnswers ins .noAnswer) →
    payload o outs s = (.hang, (s.afterXchgs outs (cutAnswers ins .noAnswer)).collectAll o ins) := by
  induction outs with
  | nil => exact fun _ _ hl => absurd hl (Nat.not_lt_zero _)
  | cons b outs ih =>
    intro ins s hl hw
    cases ins with
    | nil =>
      have h0 : s.answerAt 0 = .noAnswer := by simpa [State.Of.willAnswer, cutAnswers] using hw
      rw [payload, xchg_eq, h0]
      simp only [State.Of.afterXchgs_one o b outs, cutAnswers, List.map_nil, List.nil_append]
    | cons r ins =>
      obtain ⟨h0, hrest⟩ :=
        (State.Of.willAnswer_cons (t := (s.exchanged b (.ok r)).collect o r) (fun k => by simp)).mp hw
      rw [payload, xchg_eq, h0]
      simp only [ih ins _ (by simpa using hl) hrest, State.Of.afterXchgs_cons, cutAnswers_cons]

/-! ## The frame -/

section

variable {s : State.Of σ ε} (o : Instr) (opb : Byte) {outs : List Byte}

/-- The state after the op-code exchange, before the payload's. -/
theorem inFrame_payload (b0 : Byte) (as : List (Answer ε)) (ins : List Byte) :
    (((openFrame o opb outs s).exchanged opb (.ok b0)).afterXchgs outs as).collectAll o ins
      = s.inFrame o opb outs (.ok b0 :: as) ins := by
  simp [State.Of.inFrame, State.Of.afterXchgs, State.Of.collectAll, State.Of.exchanged, xchgEvents, Nat.add_assoc,
    Nat.add_comm 1]

/-- Every exchange answered: the frame ends with its in-bytes and the line released (20_memory.md R39). -/
theorem frame_of_ok {b0 : Byte} {ins : List Byte} (hl : ins.length = outs.length)
    (hw : s.willAnswer (okAnswers b0 ins)) :
    frame o opb outs s = (.ok ins, (s.inFrame o opb outs (okAnswers b0 ins) ins).releaseSelect) := by
  obtain ⟨h0, hrest⟩ :=
    (State.Of.willAnswer_cons (t := (openFrame o opb outs s).exchanged opb (.ok b0)) (fun k => by simp)).mp hw
  rw [frame, frameExchanges, xchg_eq, answerAt_openFrame, h0]
  simp only [payload_of_ok o outs ins _ hl hrest, closeFrame, okAnswers, inFrame_payload]

/-- An exchange failed: the frame ends there, the line released (60_exceptions.md R97). -/
theorem frame_of_fail {oks : List Byte} {e : ε} (hl : oks.length ≤ outs.length)
    (hw : s.willAnswer (cutAnswers oks (.fail e))) :
    frame o opb outs s
      = (.fail e, (s.inFrame o opb outs (cutAnswers oks (.fail e)) oks.tail).releaseSelect) := by
  cases oks with
  | nil =>
    have h0 : s.answerAt 0 = .fail e := by simpa [State.Of.willAnswer, cutAnswers] using hw
    rw [frame, frameExchanges, xchg_eq, answerAt_openFrame, h0]
    simp only [closeFrame, State.Of.afterXchgs_one o opb outs, State.Of.inFrame, cutAnswers, List.map_nil, List.nil_append,
      List.tail_nil]
  | cons b0 ins =>
    obtain ⟨h0, hrest⟩ :=
      (State.Of.willAnswer_cons (t := (openFrame o opb outs s).exchanged opb (.ok b0)) (fun k => by simp)).mp hw
    rw [frame, frameExchanges, xchg_eq, answerAt_openFrame, h0]
    simp only [payload_of_fail o e outs ins _ (by simpa using hl) hrest, closeFrame, cutAnswers_cons, inFrame_payload,
      List.tail_cons]

/-- An exchange never returned: the frame stands there, the line asserted, PH = Hung(o) (60_exceptions.md R99). -/
theorem frame_of_hang {oks : List Byte} (hl : oks.length ≤ outs.length)
    (hw : s.willAnswer (cutAnswers oks .noAnswer)) :
    frame o opb outs s
      = (.hang, (s.inFrame o opb outs (cutAnswers oks .noAnswer) oks.tail).setPhase (.hung o)) := by
  cases oks with
  | nil =>
    have h0 : s.answerAt 0 = .noAnswer := by simpa [State.Of.willAnswer, cutAnswers] using hw
    rw [frame, frameExchanges, xchg_eq, answerAt_openFrame, h0]
    simp only [closeFrame, State.Of.afterXchgs_one o opb outs, State.Of.inFrame, cutAnswers, List.map_nil, List.nil_append,
      List.tail_nil]
  | cons b0 ins =>
    obtain ⟨h0, hrest⟩ :=
      (State.Of.willAnswer_cons (t := (openFrame o opb outs s).exchanged opb (.ok b0)) (fun k => by simp)).mp hw
    rw [frame, frameExchanges, xchg_eq, answerAt_openFrame, h0]
    simp only [payload_of_hang o outs ins _ (by simpa using hl) hrest, closeFrame, cutAnswers_cons, inFrame_payload,
      List.tail_cons]

end

/-! ## The shape of an operation -/

/-- The two ways of saying that no operation is in progress. -/
theorem Phase.isIdle_iff (p : Phase ε) : p.isIdle = true ↔ p = .idle := by
  cases p <;> simp [Phase.isIdle]

/-- An operation is not turned away exactly when the block is ready. -/
theorem State.Of.refusal_eq_none_iff (s : State.Of σ ε) : s.refusal = none ↔ s.ready := by
  unfold State.Of.refusal State.Of.ready State.Of.busHeld
  rw [← s.phase.isIdle_iff]
  split <;> simp_all

/-- A block that is not ready turns every operation away with no bus event (60_exceptions.md R98, R100). -/
theorem State.Of.refusal_of_not_ready {s : State.Of σ ε} (h : ¬s.ready) : ∃ r, s.refusal = some r :=
  Option.ne_none_iff_exists'.mp fun hn => h (s.refusal_eq_none_iff.mp hn)

/-- Everything an operation can do in a ready block: complete, end in a transport failure, or hang. -/
theorem operate_cases {s : State.Of σ ε} (o : Instr) (opb : Byte) (outs : List Byte)
    (finish : List Byte → State.Of σ ε → State.Of σ ε) (hr : s.ready) :
    (∃ b0 ins, ins.length = outs.length ∧ s.willAnswer (okAnswers b0 ins) ∧
      operate o opb outs finish s
        = .next (finish ins (s.inFrame o opb outs (okAnswers b0 ins) ins).releaseSelect)) ∨
    (∃ oks e, oks.length ≤ outs.length ∧ s.willAnswer (cutAnswers oks (.fail e)) ∧
      operate o opb outs finish s = .next (raiseTransportFailure e
        (s.inFrame o opb outs (cutAnswers oks (.fail e)) oks.tail).releaseSelect)) ∨
    (∃ oks, oks.length ≤ outs.length ∧ s.willAnswer (cutAnswers oks .noAnswer) ∧
      operate o opb outs finish s
        = .next ((s.inFrame o opb outs (cutAnswers oks .noAnswer) oks.tail).setPhase (.hung o))) := by
  have hn := s.refusal_eq_none_iff.mpr hr
  obtain ⟨ins, hl, hw⟩ | ⟨oks, e, hl, hw⟩ | ⟨oks, hl, hw⟩ := State.Of.answers_cases (outs.length + 1) s
  · cases ins with
    | nil => cases hl
    | cons b0 ins =>
      have hl' : ins.length = outs.length := by simpa using hl
      exact .inl ⟨b0, ins, hl', hw, by simp only [operate, hn, frame_of_ok o opb hl' hw, settle]⟩
  · exact .inr (.inl ⟨oks, e, by omega, hw,
      by simp only [operate, hn, frame_of_fail o opb (Nat.le_of_lt_succ hl) hw, settle]⟩)
  · exact .inr (.inr ⟨oks, by omega, hw,
      by simp only [operate, hn, frame_of_hang o opb (Nat.le_of_lt_succ hl) hw, settle]⟩)

/-- A block that is not ready: the operation is refused. -/
theorem operate_of_not_ready {s : State.Of σ ε} (o : Instr) (opb : Byte) (outs : List Byte)
    (finish : List Byte → State.Of σ ε → State.Of σ ε) (h : ¬s.ready) :
    ∃ r, operate o opb outs finish s = .refused r := by
  obtain ⟨r, hr⟩ := State.Of.refusal_of_not_ready h
  exact ⟨r, by simp only [operate, hr]⟩

/-! ## The uniform reading of exec -/

/-- What an operation responds to its in-bytes (files 40 to 43). -/
def resultOf (i : Instr) (n : Nat) (ins : List Byte) : Response TransportError :=
  match i.format with
  | .op => .done
  | .opIn1 => byteResult ins
  | .opOut1 => .done
  | .opInW => countResult n ins
  | .opOutW => .done

/-- How an operation ends on success: W, then the response. -/
def finishOf (i : Instr) (n : Nat) (ins : List Byte) (t : State) : State :=
  (t.setWidthCode (widthAfter i (resultOf i n ins) t.wc)).respond (resultOf i n ins)

/-- Every meaning is one frame of its own table row: the literal bytes of the meanings are those of the op-code table
(30_encoding.md R59, R62). -/
theorem exec_eq_operate (i : Instr) (s : State) :
    exec i s = operate i (opcode i) (outBytes s.wc i) (finishOf i s.width) s := by
  cases i <;> rfl

section

variable {s : State} (i : Instr) (hr : s.ready)

include hr

/-- Every exchange answered: the operation ends on success. -/
theorem exec_of_ok {b0 : Byte} {ins : List Byte} (hl : ins.length = payloadCount s.wc i)
    (hw : s.willAnswer (okAnswers b0 ins)) :
    exec i s = .next (finishOf i s.width ins
      (s.inFrame i (opcode i) (outBytes s.wc i) (okAnswers b0 ins) ins).releaseSelect) := by
  rw [exec_eq_operate, operate, s.refusal_eq_none_iff.mpr hr,
    frame_of_ok i (opcode i) (by rw [hl, length_outBytes]) hw]
  rfl

/-- An exchange failed: the operation ends in a transport failure. -/
theorem exec_of_fail {oks : List Byte} {e : TransportError} (hl : oks.length ≤ payloadCount s.wc i)
    (hw : s.willAnswer (cutAnswers oks (.fail e))) :
    exec i s = .next (raiseTransportFailure e
      (s.inFrame i (opcode i) (outBytes s.wc i) (cutAnswers oks (.fail e)) oks.tail).releaseSelect) := by
  rw [exec_eq_operate, operate, s.refusal_eq_none_iff.mpr hr,
    frame_of_fail i (opcode i) (by rw [length_outBytes]; exact hl) hw]
  rfl

/-- An exchange never returned: the block hangs. -/
theorem exec_of_hang {oks : List Byte} (hl : oks.length ≤ payloadCount s.wc i)
    (hw : s.willAnswer (cutAnswers oks .noAnswer)) :
    exec i s = .next
      ((s.inFrame i (opcode i) (outBytes s.wc i) (cutAnswers oks .noAnswer) oks.tail).setPhase (.hung i)) := by
  rw [exec_eq_operate, operate, s.refusal_eq_none_iff.mpr hr,
    frame_of_hang i (opcode i) (by rw [length_outBytes]; exact hl) hw]
  rfl

end

/-- Everything an operation that answers a next state can have done. -/
theorem exec_cases {i : Instr} {s t : State} (h : exec i s = .next t) : s.ready ∧
    ((∃ b0 ins, ins.length = payloadCount s.wc i ∧ s.willAnswer (okAnswers b0 ins) ∧
        t = finishOf i s.width ins
          (s.inFrame i (opcode i) (outBytes s.wc i) (okAnswers b0 ins) ins).releaseSelect) ∨
      (∃ oks e, oks.length ≤ payloadCount s.wc i ∧ s.willAnswer (cutAnswers oks (.fail e)) ∧
        t = raiseTransportFailure e
          (s.inFrame i (opcode i) (outBytes s.wc i) (cutAnswers oks (.fail e)) oks.tail).releaseSelect) ∨
      (∃ oks, oks.length ≤ payloadCount s.wc i ∧ s.willAnswer (cutAnswers oks .noAnswer) ∧
        t = (s.inFrame i (opcode i) (outBytes s.wc i) (cutAnswers oks .noAnswer) oks.tail).setPhase (.hung i))) := by
  rw [exec_eq_operate] at h
  by_cases hr : s.ready
  · have key := operate_cases i (opcode i) (outBytes s.wc i) (finishOf i s.width) hr
    simp only [length_outBytes] at key
    obtain ⟨b0, ins, hl, hw, he⟩ | ⟨oks, e, hl, hw, he⟩ | ⟨oks, hl, hw, he⟩ := key <;> rw [he] at h <;> cases h
    · exact ⟨hr, .inl ⟨b0, ins, hl, hw, rfl⟩⟩
    · exact ⟨hr, .inr (.inl ⟨oks, e, hl, hw, rfl⟩)⟩
    · exact ⟨hr, .inr (.inr ⟨oks, hl, hw, rfl⟩)⟩
  · obtain ⟨r, hn⟩ := operate_of_not_ready i (opcode i) (outBytes s.wc i) (finishOf i s.width) hr
    rw [hn] at h
    cases h

end Sys2Proof.Machine
end

