-- ==== Sys2Proof/Laws/PerInstr.lean ====
section
/-! SUPPORT. The per-operation families. -/

namespace Sys2Proof.Laws

/-- The frame of an operation is its op-code byte and its payload, 1 to 5 bytes (30_encoding.md R56). -/
def EncodeLength.Statement (i : Instr) : Prop :=
  ∀ c : WidthCode, (encode c i).length = 1 + payloadCount c i ∧ (encode c i).length ≤ 5

/-- The lemma every constructor's rests on. -/
theorem encodeLength_of (i : Instr) : EncodeLength.Statement i := by
  intro c
  have hle := payloadCount_le c i
  simp only [encode, List.length_cons, length_outBytes, Config.maxPayload] at *
  omega

theorem EncodeLength.clearModeRegister0 : EncodeLength.Statement .clearModeRegister0 := encodeLength_of _
theorem EncodeLength.clearModeRegister1 : EncodeLength.Statement .clearModeRegister1 := encodeLength_of _
theorem EncodeLength.clearCounter : EncodeLength.Statement .clearCounter := encodeLength_of _
theorem EncodeLength.clearStatusRegister : EncodeLength.Statement .clearStatusRegister := encodeLength_of _
theorem EncodeLength.readModeRegister0 : EncodeLength.Statement .readModeRegister0 := encodeLength_of _
theorem EncodeLength.readModeRegister1 : EncodeLength.Statement .readModeRegister1 := encodeLength_of _
theorem EncodeLength.readCounter : EncodeLength.Statement .readCounter := encodeLength_of _
theorem EncodeLength.readOtr : EncodeLength.Statement .readOtr := encodeLength_of _
theorem EncodeLength.readStatusRegister : EncodeLength.Statement .readStatusRegister := encodeLength_of _
theorem EncodeLength.writeModeRegister0 (v : Byte) : EncodeLength.Statement (.writeModeRegister0 v) :=
  encodeLength_of _
theorem EncodeLength.writeModeRegister1 (v : Byte) : EncodeLength.Statement (.writeModeRegister1 v) :=
  encodeLength_of _
theorem EncodeLength.writeDataRegister (value : Pattern) : EncodeLength.Statement (.writeDataRegister value) :=
  encodeLength_of _
theorem EncodeLength.loadCounter : EncodeLength.Statement .loadCounter := encodeLength_of _
theorem EncodeLength.loadOtr : EncodeLength.Statement .loadOtr := encodeLength_of _

end Sys2Proof.Laws
end

