-- ==== Sys2Proof/Laws/Step.lean ====
section
/-! SUPPORT. What one step can do, said once: an event of the host's, the block's own bus event, or nothing in Hung; and
what the other channels' events can do. -/

namespace Sys2Proof.Machine

variable {σ ε : Type}

/-! ## What the host does, what the block does -/

/-- While the host waits and an operation is in progress, a step is the block's own. -/
theorem step_of_busy {s : State} (hw : s.hostWaits = true) (h : s.phase ≠ .idle) : step s = busStep s := by
  have hi : s.phase.isIdle = false := by simpa using mt s.phase.isIdle_iff.mp h
  unfold State.Of.hostWaits at hw
  unfold step advance
  split at hw <;> simp_all

/-- Nothing follows Hung (60_exceptions.md R99). -/
theorem step_of_hung {s : State} {o : Instr} (hw : s.hostWaits = true) (h : s.phase = .hung o) :
    step s = .fault .hung := by
  rw [step_of_busy hw (by simp [h]), busStep, h]

/-- An operation on the port is turned away, or makes the first bus event of its frame. -/
theorem step_of_issue {s : State} {c : Command} {rest : List (HostEvent SelectId)} {i : Instr}
    (hp : s.port = .issue c :: rest) (hc : decodeCommand c = .ok i) : step s = accept i (s.setPort rest) := by
  unfold step advance
  rw [hp]
  simp only [issue, hc]

/-- The port accepts an operation exactly in a ready block. -/
theorem accept_of_ready {s : State.Of σ ε} (i : Instr) (h : s.ready) : accept i s = .next (begin i s) := by
  rw [accept, s.refusal_eq_none_iff.mpr h]

/-- An operation is refused by the port for the reason for which `exec` refuses it. -/
theorem accept_of_refused {s : State} {i : Instr} {r : Refusal} (h : exec i s = .refused r) :
    accept i s = .refused r := by
  rw [exec_eq_operate, operate] at h
  rw [accept]
  split at h <;> simp_all

/-- A run of the host's machine, one step at a time. -/
theorem core_run_succ (M : Host.Core) (k : Nat) {s t : M.State} (h : M.step s = .next t) :
    M.run (k + 1) s = M.run k t := by
  rw [Host.Core.run.eq_2, h]

/-- A run of this machine, one step at a time. -/
theorem run_succ_of_next (k : Nat) {s t : State} (h : step s = .next t) :
    Host.Core.run Sys2Proof.core (k + 1) s = Host.Core.run Sys2Proof.core k t :=
  core_run_succ Sys2Proof.core k h

/-! ## The sequencer -/

/-- Everything one bus event can be, and what it does to the state. -/
theorem busStep_cases {s t : State.Of σ ε} (h : busStep s = .next t) :
    (s.phase = .idle ∧ t = s) ∨
    (∃ o b, s.phase = .op o ∧ s.answerAt 0 = .ok b ∧
      t = (s.exchanged s.opb (.ok b)).setPhase (afterOpcode o s)) ∨
    (∃ o k n b r, s.phase = .pay o k n ∧ s.out[k]? = some b ∧ s.answerAt 0 = .ok r ∧
      t = ((s.exchanged b (.ok r)).collect o r).setPhase (afterPayload o k n (s.collect o r))) ∨
    (∃ o b e, (s.phase = .op o ∧ b = s.opb ∨ ∃ k n, s.phase = .pay o k n ∧ s.out[k]? = some b) ∧
      s.answerAt 0 = .fail e ∧ t = (s.exchanged b (.fail e)).setPhase (.rel o (.transportFailure e))) ∨
    (∃ o b, (s.phase = .op o ∧ b = s.opb ∨ ∃ k n, s.phase = .pay o k n ∧ s.out[k]? = some b) ∧
      s.answerAt 0 = .noAnswer ∧ t = (s.exchanged b .noAnswer).setPhase (.hung o)) ∨
    (∃ o res, s.phase = .rel o res ∧
      t = (s.releaseSelect.setWidthCode (widthAfter o res s.wc)).respond res) := by
  unfold busStep at h
  cases hp : s.phase with
  | idle => simp only [hp] at h; cases h; exact .inl ⟨rfl, rfl⟩
  | hung o => simp only [hp] at h; cases h
  | op o =>
    simp only [hp, xchg_eq] at h
    cases ha : s.answerAt 0 with
    | ok b => rw [ha] at h; cases h; exact .inr (.inl ⟨o, b, rfl, rfl, rfl⟩)
    | fail e => rw [ha] at h; cases h; exact .inr (.inr (.inr (.inl ⟨o, _, e, .inl ⟨rfl, rfl⟩, rfl, rfl⟩)))
    | noAnswer => rw [ha] at h; cases h; exact .inr (.inr (.inr (.inr (.inl ⟨o, _, .inl ⟨rfl, rfl⟩, rfl, rfl⟩))))
  | pay o k n =>
    simp only [hp, xchg_eq] at h
    cases hk : s.out[k]? with
    | none => simp only [hk] at h; cases h
    | some b =>
      simp only [hk] at h
      cases ha : s.answerAt 0 with
      | ok r => rw [ha] at h; cases h; exact .inr (.inr (.inl ⟨o, k, n, b, r, rfl, hk, rfl, rfl⟩))
      | fail e =>
        rw [ha] at h
        cases h
        exact .inr (.inr (.inr (.inl ⟨o, b, e, .inr ⟨k, n, rfl, hk⟩, rfl, rfl⟩)))
      | noAnswer =>
        rw [ha] at h
        cases h
        exact .inr (.inr (.inr (.inr (.inl ⟨o, b, .inr ⟨k, n, rfl, hk⟩, rfl, rfl⟩))))
  | rel o res => simp only [hp] at h; cases h; exact .inr (.inr (.inr (.inr (.inr ⟨o, res, rfl, rfl⟩))))

/-! ## The other channels -/

section

variable [DecidableEq σ]

/-- There is a channel on a line exactly if one of the other channels has it. -/
theorem State.Of.hasPeer_iff (s : State.Of σ ε) (sel : σ) : s.hasPeer sel = true ↔ sel ∈ s.peers.map Peer.sel := by
  simp [State.Of.hasPeer]

@[simp] theorem State.Of.hasPeer_setPort (s : State.Of σ ε) (p : List (HostEvent σ)) (sel : σ) :
    (s.setPort p).hasPeer sel = s.hasPeer sel := rfl

/-- A channel is constructed only on a free line, and starts released (60_exceptions.md R100 (e)). -/
theorem constructPeer_next {s t : State.Of σ ε} {sel : σ} (h : constructPeer sel s = .next t) :
    s.bound sel = false ∧ t = s.setPeers (s.peers ++ [⟨sel, false⟩]) := by
  unfold constructPeer at h
  split at h
  · cases h
  · rename_i hb
    cases h
    exact ⟨by simpa using hb, rfl⟩

/-- Another channel starts a frame only while no line is asserted (60_exceptions.md R100 (d)). -/
theorem assertPeer_next {s t : State.Of σ ε} {sel : σ} (h : assertPeer sel s = .next t) :
    s.selAsserted = false ∧ s.busHeld = false ∧ t = s.setPeers (setLine sel true s.peers) := by
  unfold assertPeer at h
  split at h
  · cases h
  · split at h
    · cases h
    · rename_i _ hb
      cases h
      simp only [Bool.not_eq_true, Bool.or_eq_false_iff] at hb
      exact ⟨hb.1, hb.2, rfl⟩

/-- Another channel ends its frame: only its level moves. -/
theorem releasePeer_next {s t : State.Of σ ε} {sel : σ} (h : releasePeer sel s = .next t) :
    t = s.setPeers (setLine sel false s.peers) := by
  unfold releasePeer at h
  split at h
  · cases h
  · cases h
    rfl

/-- A channel's line is the same after its level moves. -/
@[simp] theorem setLine_sels (sel : σ) (level : Bool) (peers : List (Peer σ)) :
    (setLine sel level peers).map Peer.sel = peers.map Peer.sel := by
  simp only [setLine, List.map_map]
  congr 1
  funext p
  simp only [Function.comp]
  split <;> rfl

end

/-! ## The step -/

/-- Everything a step can be: the block's own, the end of a wait, or an event of the host's. -/
theorem step_cases {s t : State} (h : step s = .next t) :
    (s.hostWaits = true ∧ busStep s = .next t) ∨
    (∃ rest, s.port = .await :: rest ∧ s.phase = .idle ∧ t = s.setPort rest) ∨
    (∃ c rest i, s.port = .issue c :: rest ∧ decodeCommand c = .ok i ∧ s.ready ∧ t = begin i (s.setPort rest)) ∨
    (∃ sel rest, s.port = .construct sel :: rest ∧ constructPeer sel (s.setPort rest) = .next t) ∨
    (∃ sel rest, s.port = .peerAssert sel :: rest ∧ assertPeer sel (s.setPort rest) = .next t) ∨
    (∃ sel rest, s.port = .peerRelease sel :: rest ∧ releasePeer sel (s.setPort rest) = .next t) := by
  unfold step advance at h
  split at h
  · rename_i hp
    exact .inl ⟨by simp [State.Of.hostWaits, hp], h⟩
  · rename_i rest hp
    split at h
    · rename_i hi
      cases h
      exact .inr (.inl ⟨rest, hp, s.phase.isIdle_iff.mp hi, rfl⟩)
    · exact .inl ⟨by simp [State.Of.hostWaits, hp], h⟩
  · rename_i c rest hp
    unfold issue accept at h
    split at h
    · cases h
    · rename_i i hi
      split at h
      · cases h
      · rename_i hr
        cases h
        exact .inr (.inr (.inl ⟨c, rest, i, hp, hi, (State.Of.refusal_eq_none_iff (s.setPort rest)).mp hr, rfl⟩))
  · rename_i sel rest hp
    exact .inr (.inr (.inr (.inl ⟨sel, rest, hp, h⟩)))
  · rename_i sel rest hp
    exact .inr (.inr (.inr (.inr (.inl ⟨sel, rest, hp, h⟩))))
  · rename_i sel rest hp
    exact .inr (.inr (.inr (.inr (.inr ⟨sel, rest, hp, h⟩))))

end Sys2Proof.Machine
end

