-- ==== Sys2Proof/Tests/Slice0.lean ====
section
/-! SUPPORT. The model's own tests: ill-formed commands, written words, the vectors of 95_test_vectors.md one operation at
a time, and a witness for the hypotheses of each statement. -/

namespace Sys2Proof.Tests

open Sys2Proof Sys2Proof.Machine

/-! ## Helpers -/

/-- An idle block bound to line 7, with a width code, the answers of its coming exchanges, and what the host does next. -/
def block (c : WidthCode) (answers : List (Answer TransportError)) (port : List (HostEvent SelectId) := []) : State :=
  { State.Of.construct 7 with wc := c, answers := answers, port := port }

/-- What a test looks at after a step: response, W's code, PH and the bus events. -/
def look : Result SelectId TransportError →
    Option (Option (Response TransportError) × WidthCode × Phase TransportError × List (BusEvent SelectId TransportError))
  | .next t => some (t.response, t.wc, t.phase, t.trace)
  | .fault _ => none
  | .refused _ => none

/-- The bus events of a frame on line 7 that ends. -/
def frame7 (events : List (BusEvent SelectId TransportError)) : List (BusEvent SelectId TransportError) :=
  .assert 7 :: events ++ [.release 7]

/-- Did a step answer a next state? -/
def isNext : Result SelectId TransportError → Bool
  | .next _ => true
  | .fault _ => false
  | .refused _ => false

/-- The refusal a step answered. -/
def refusalOf : Result SelectId TransportError → Option Refusal
  | .next _ => none
  | .fault _ => none
  | .refused r => some r

/-- A block whose one other channel, on line 5, is at a level. -/
def withPeer (level : Bool) (port : List (HostEvent SelectId) := []) : State :=
  { block 0#2 [] port with peers := [⟨5, level⟩] }

/-! ## Ill-formed commands (30_encoding.md R61, R67; vectors F-4, F-5) -/

theorem test_wellFormed_refuses_unlisted : Command.wellFormed ⟨.unlisted "clear_OTR", none⟩ = false := by decide
theorem test_wellFormed_refuses_byte_256 : Command.wellFormed ⟨.writeModeRegister0, some 0x100⟩ = false := by decide
theorem test_wellFormed_refuses_byte_negative : Command.wellFormed ⟨.writeModeRegister1, some (-1)⟩ = false := by decide
theorem test_wellFormed_refuses_data_too_big :
    Command.wellFormed ⟨.writeDataRegister, some 4294967296⟩ = false := by decide
theorem test_wellFormed_refuses_data_too_small :
    Command.wellFormed ⟨.writeDataRegister, some (-2147483649)⟩ = false := by decide
theorem test_wellFormed_refuses_missing_operand : Command.wellFormed ⟨.writeDataRegister, none⟩ = false := by decide
theorem test_wellFormed_refuses_extra_operand : Command.wellFormed ⟨.readCounter, some 0⟩ = false := by decide

/-! ## Assembler (30_encoding.md R67, R69) -/

theorem test_parse_hexadecimal :
    parseLine "write_mode_register_1 0x02".toList = .ok (some ⟨.writeModeRegister1, some 2⟩) := by decide
theorem test_parse_negative_with_comment :
    parseLine "write_data_register -2 ; two's complement".toList = .ok (some ⟨.writeDataRegister, some (-2)⟩) := by
  decide
theorem test_parse_bad_literal : parseLine "write_mode_register_0 010".toList = .error .badLiteral := by decide
theorem test_negative_operand_is_its_pattern :
    decodeCommand ⟨.writeDataRegister, some (-2)⟩ = .ok (.writeDataRegister 0xFFFFFFFE#32) := by decide
theorem test_frame_notation : frameText 2#2 .readCounter [0xFF#8, 0xFE#8] = "[60 <FF> <FE>]".toList := by decide

/-! ## Decoding: one written word for each operation (30_encoding.md R59, bits 7..0 of its row) -/

theorem test_decode_clearModeRegister0 : decode 0#2 [0b00010000#8] = .ok .clear10 := by decide
theorem test_decode_clearModeRegister1 : decode 3#2 [0b00010000#8] = .ok (meaningOf 3#2 .clearModeRegister1) := by decide
theorem test_decode_clearCounter : decode 0#2 [0b00000001#8] = .ok (.op .clearCounter) := by decide
theorem test_decode_clearStatusRegister : decode 0#2 [0b00001000#8] = .ok (.op .clearStatusRegister) := by decide
theorem test_decode_readModeRegister0 : decode 1#2 [0b01001000#8, 0#8] = .ok (.op .readModeRegister0) := by decide
theorem test_decode_readModeRegister1 : decode 1#2 [0b01010000#8, 0#8] = .ok (.op .readModeRegister1) := by decide
theorem test_decode_readCounter : decode 2#2 [0b01100000#8, 0#8, 0#8] = .ok (.op .readCounter) := by decide
theorem test_decode_readOtr : decode 3#2 [0b01101000#8, 0#8] = .ok (.op .readOtr) := by decide
theorem test_decode_readStatusRegister : decode 0#2 [0b01110000#8, 0#8] = .ok (.op .readStatusRegister) := by decide
theorem test_decode_writeModeRegister0 :
    decode 0#2 [0b10001000#8, 0x03#8] = .ok (.op (.writeModeRegister0 0x03#8)) := by decide
theorem test_decode_writeModeRegister1 :
    decode 0#2 [0b10010000#8, 0x4D#8] = .ok (.op (.writeModeRegister1 0x4D#8)) := by decide
theorem test_decode_writeDataRegister :
    decode 1#2 [0b10011000#8, 0xAB#8, 0xCD#8, 0xEF#8] = .ok (.op (.writeDataRegister 0x00ABCDEF#32)) := by decide
theorem test_decode_loadCounter : decode 0#2 [0b11100000#8] = .ok (.op .loadCounter) := by decide
theorem test_decode_loadOtr : decode 0#2 [0b11101000#8] = .ok (.op .loadOtr) := by decide
theorem test_decode_refuses_unlisted : decode 0#2 [0x20#8] = .error (.unlistedOpcode 0x20#8) := by decide
theorem test_decode_refuses_truncated : decode 0#2 [0x60#8, 0#8] = .error .truncated := by decide
theorem test_decode_refuses_trailing : decode 0#2 [0x01#8, 0#8] = .error .trailing := by decide
theorem test_decode_refuses_fill : decode 0#2 [0x70#8, 1#8] = .error .fillNotZero := by decide
theorem test_decodeTableWord_with_operand :
    decodeTableWord 40 0x7856341298 = some (.writeDataRegister 0x12345678#32) := by decide

/-- Every op-code byte of the table, placed as the next operation, is taken by the first step after reset. -/
theorem test_first_step_runs_every_opcode :
    [0x10, 0x01, 0x08, 0x48, 0x50, 0x60, 0x68, 0x70, 0x88, 0x90, 0x98, 0xE0, 0xE8].all
      (fun w => isNext (step (State.reset.withFetchWord 8 w))) = true := by decide

-- 10_state.md R24: assert, exchanges, release, one bus event a step
theorem test_first_step_asserts : look (step (block 2#2 [] [.issue ⟨.readCounter, none⟩, .await]))
    = some (none, 2#2, .op .readCounter, [.assert 7]) := by decide
theorem test_opcode_step : look (step (begin .readCounter (block 2#2 [.ok 0x11#8])))
    = some (none, 2#2, .pay .readCounter 0 2, [.assert 7, .xchg 0x60#8 (.ok 0x11#8)]) := by decide
theorem test_release_step_sets_width :
    look (step ((block 0#2 []).setPhase (.rel (.writeModeRegister1 0x02#8) .done)))
      = some (some .done, 2#2, .idle, [.release 7]) := by decide

/-! ## Operations: vectors of 95_test_vectors.md -/

-- C-1
theorem test_clearModeRegister0 : look (exec .clearModeRegister0 (block 1#2 [.ok 0xFF#8]))
    = some (some .done, 1#2, .idle, frame7 [.xchg 0x10#8 (.ok 0xFF#8)]) := by decide
-- C-2
theorem test_clearModeRegister1_keeps_width : look (exec .clearModeRegister1 (block 3#2 [.ok 0#8]))
    = some (some .done, 3#2, .idle, frame7 [.xchg 0x10#8 (.ok 0#8)]) := by decide
-- C-3
theorem test_clearCounter : look (exec .clearCounter (block 0#2 [.ok 0#8]))
    = some (some .done, 0#2, .idle, frame7 [.xchg 0x01#8 (.ok 0#8)]) := by decide
-- C-5
theorem test_clearCounter_failure : look (exec .clearCounter (block 2#2 [.fail 9]))
    = some (some (.transportFailure 9), 2#2, .idle, frame7 [.xchg 0x01#8 (.fail 9)]) := by decide
-- C-4
theorem test_clearStatusRegister : look (exec .clearStatusRegister (block 2#2 [.ok 0#8]))
    = some (some .done, 2#2, .idle, frame7 [.xchg 0x08#8 (.ok 0#8)]) := by decide
-- B-1
theorem test_readModeRegister0 : look (exec .readModeRegister0 (block 2#2 [.ok 0x55#8, .ok 0xC3#8]))
    = some (some (.byte 0xC3#8), 2#2, .idle, frame7 [.xchg 0x48#8 (.ok 0x55#8), .xchg 0#8 (.ok 0xC3#8)]) := by decide
-- B-6
theorem test_readModeRegister1_keeps_width : look (exec .readModeRegister1 (block 3#2 [.ok 0#8, .ok 0xFC#8]))
    = some (some (.byte 0xFC#8), 3#2, .idle, frame7 [.xchg 0x50#8 (.ok 0#8), .xchg 0#8 (.ok 0xFC#8)]) := by decide
-- B-4
theorem test_readStatusRegister_not_extended : look (exec .readStatusRegister (block 1#2 [.ok 0#8, .ok 0xFF#8]))
    = some (some (.byte 0xFF#8), 1#2, .idle, frame7 [.xchg 0x70#8 (.ok 0#8), .xchg 0#8 (.ok 0xFF#8)]) := by decide
-- B-7
theorem test_readStatusRegister_failure : look (exec .readStatusRegister (block 2#2 [.ok 0#8, .fail 3]))
    = some (some (.transportFailure 3), 2#2, .idle, frame7 [.xchg 0x70#8 (.ok 0#8), .xchg 0#8 (.fail 3)]) := by decide
-- K-1
theorem test_readCounter_two_bytes : look (exec .readCounter (block 2#2 [.ok 0#8, .ok 0xFF#8, .ok 0xFE#8]))
    = some (some (.count 0xFFFFFFFE#32), 2#2, .idle,
        frame7 [.xchg 0x60#8 (.ok 0#8), .xchg 0#8 (.ok 0xFF#8), .xchg 0#8 (.ok 0xFE#8)]) := by decide
-- K-5
theorem test_readCounter_failure : look (exec .readCounter (block 0#2 [.ok 0#8, .ok 1#8, .ok 2#8, .fail 4, .ok 5#8]))
    = some (some (.transportFailure 4), 0#2, .idle,
        frame7 [.xchg 0x60#8 (.ok 0#8), .xchg 0#8 (.ok 1#8), .xchg 0#8 (.ok 2#8), .xchg 0#8 (.fail 4)]) := by decide
-- K-2
theorem test_readOtr_one_byte : look (exec .readOtr (block 3#2 [.ok 0#8, .ok 0x80#8]))
    = some (some (.count 0xFFFFFF80#32), 3#2, .idle, frame7 [.xchg 0x68#8 (.ok 0#8), .xchg 0#8 (.ok 0x80#8)]) := by
  decide
-- F-1
theorem test_readCounter_hangs : look (exec .readCounter (block 2#2 [.ok 0#8, .noAnswer]))
    = some (none, 2#2, .hung .readCounter, [.assert 7, .xchg 0x60#8 (.ok 0#8), .xchg 0#8 .noAnswer]) := by decide
-- X-8, X-13, X-15, X-18, X-20
theorem test_signExt_vectors :
    [signExt 0x7FFF#32 2, signExt 0x7FFFFF#32 3, signExt 0xABCDEF#32 3, signExt 0x12345678#32 4, signExt 0x80000001#32 4]
      = [0x00007FFF#32, 0x007FFFFF#32, 0xFFABCDEF#32, 0x12345678#32, 0x80000001#32] := by decide
-- M-13
theorem test_writeModeRegister0_keeps_width : look (exec (.writeModeRegister0 0x03#8) (block 1#2 [.ok 0#8, .ok 0#8]))
    = some (some .done, 1#2, .idle, frame7 [.xchg 0x88#8 (.ok 0#8), .xchg 0x03#8 (.ok 0#8)]) := by decide
-- M-7
theorem test_writeModeRegister1_width_three : look (exec (.writeModeRegister1 0x4D#8) (block 2#2 [.ok 0#8, .ok 0#8]))
    = some (some .done, 1#2, .idle, frame7 [.xchg 0x90#8 (.ok 0#8), .xchg 0x4D#8 (.ok 0#8)]) := by decide
-- M-11
theorem test_writeModeRegister1_failure : look (exec (.writeModeRegister1 0x03#8) (block 2#2 [.ok 0#8, .fail 1]))
    = some (some (.transportFailure 1), 2#2, .idle, frame7 [.xchg 0x90#8 (.ok 0#8), .xchg 0x03#8 (.fail 1)]) := by decide
-- D-3
theorem test_writeDataRegister_two_bytes :
    look (exec (.writeDataRegister 0x12345678#32) (block 2#2 [.ok 0#8, .ok 0#8, .ok 0#8]))
      = some (some .done, 2#2, .idle,
          frame7 [.xchg 0x98#8 (.ok 0#8), .xchg 0x56#8 (.ok 0#8), .xchg 0x78#8 (.ok 0#8)]) := by decide
-- D-10
theorem test_writeDataRegister_failure :
    look (exec (.writeDataRegister 0x12345678#32) (block 1#2 [.ok 0#8, .ok 0#8, .fail 2, .ok 0#8]))
      = some (some (.transportFailure 2), 1#2, .idle,
          frame7 [.xchg 0x98#8 (.ok 0#8), .xchg 0x34#8 (.ok 0#8), .xchg 0x56#8 (.fail 2)]) := by decide
-- L-1
theorem test_loadCounter : look (exec .loadCounter (block 1#2 [.ok 0#8]))
    = some (some .done, 1#2, .idle, frame7 [.xchg 0xE0#8 (.ok 0#8)]) := by decide
-- L-2, L-3
theorem test_loadOtr : look (exec .loadOtr (block 0#2 [.ok 0#8]))
    = some (some .done, 0#2, .idle, frame7 [.xchg 0xE8#8 (.ok 0#8)]) := by decide
theorem test_loadOtr_failure : look (exec .loadOtr (block 3#2 [.fail 6]))
    = some (some (.transportFailure 6), 3#2, .idle, frame7 [.xchg 0xE8#8 (.fail 6)]) := by decide
-- F-2
theorem test_busy_block_refuses :
    refusalOf (exec (.writeDataRegister 0#32) (begin .readCounter (block 0#2 []))) = some .busy := by decide
-- F-4, F-5, F-6
theorem test_port_refuses_while_busy :
    refusalOf (step { begin .readCounter (block 0#2 []) with port := [.issue ⟨.writeDataRegister, some 0⟩] })
      = some .busy := by decide
theorem test_other_channel_waits_for_the_bus :
    refusalOf (step { begin .readCounter (withPeer false) with port := [.peerAssert 5] }) = some .busHeld := by decide
theorem test_port_refuses_unknown_operation :
    refusalOf (step (block 0#2 [] [.issue ⟨.unlisted "clear_OTR", none⟩]))
      = some (.badCommand (.unknownOperation "clear_OTR")) := by decide
theorem test_port_refuses_out_of_range :
    refusalOf (step (block 0#2 [] [.issue ⟨.writeModeRegister0, some 0x100⟩]))
      = some (.badCommand .operandOutOfRange) := by decide
theorem test_bound_select_is_refused : refusalOf (step (block 0#2 [] [.construct 7])) = some .selectBound := by decide

/-! ## Witnesses: for each statement with hypotheses, a state and operands that meet them together -/

theorem witness_IdleBlockWaitsForAnOperation : (block 0#2 []).phase = .idle ∧ (block 0#2 []).port = [] := by decide

theorem witness_StepRunsTheIssuedOperation :
    decodeCommand ⟨.readCounter, none⟩ = .ok .readCounter ∧ decodeTableWord 8 0x60 = some .readCounter ∧
      (∃ t, exec .readCounter ((block 0#2 [.fail 1] [.issue ⟨.readCounter, none⟩, .await]).setPort [.await]) = .next t) ∧
      ((block 0#2 [.fail 1] [.issue ⟨.readCounter, none⟩, .await]).setPort [.await]).hostWaits = true ∧
      ∃ r, exec .readCounter (withPeer true) = .refused r := ⟨rfl, by decide, ⟨_, rfl⟩, rfl, ⟨_, rfl⟩⟩

theorem witness_ContractBreachesAreRefused_commands :
    (block 0#2 [] [.issue ⟨.unlisted "clear_OTR", none⟩]).port = [.issue ⟨.unlisted "clear_OTR", none⟩] ∧
      [(-1 : Int), 256].all (fun v => decide (v < 0 ∨ 255 < v)) = true ∧
      [(-2147483649 : Int), 4294967296].all (fun v => decide (v < -(2 ^ 31) ∨ 2 ^ 32 - 1 < v)) = true := by decide

theorem witness_ContractBreachesAreRefused_lines :
    ((begin .loadOtr (block 0#2 [])).phase ≠ .idle ∧ decodeCommand ⟨.loadOtr, none⟩ = .ok .loadOtr) ∧
      ((withPeer true).phase = .idle ∧ (⟨5, true⟩ : Peer SelectId) ∈ (withPeer true).peers) ∧
      (7 = (block 0#2 [] [.construct 7]).sel ∧ 5 ∈ (withPeer false [.construct 5]).peers.map Peer.sel) := by decide

theorem witness_EveryOperationEmitsItsTableByte :
    ∃ t, exec .clearCounter (block 0#2 [.ok 0#8]) = .next t := ⟨_, rfl⟩

theorem witness_EncodeInvertsDecode : decode 0#2 [0x88#8, 0xFF#8] = .ok (.op (.writeModeRegister0 0xFF#8)) := by decide

theorem witness_MasterClearFrameIsShared :
    opcode .clearModeRegister0 = opcode .clearModeRegister1 ∧
      opcode (.writeModeRegister0 0#8) = opcode (.writeModeRegister0 1#8) := by decide

theorem witness_UnlistedOpcodesAreRefused (i : Instr) : opcode i ≠ 0x20#8 := by
  cases i <;> simp [opcode]

theorem witness_FrameLengthFollowsFormat :
    Instr.access .loadCounter = .load ∧ (Instr.register .readStatusRegister = .str ∧ Instr.access .readStatusRegister = .read) ∧
      Instr.register (.writeDataRegister 0#32) = .dtr ∧ Instr.access (.writeDataRegister 0#32) = .write := by decide

theorem witness_DerivedLayoutFitsTenRows :
    Instr.access .readOtr ≠ .clear ∧ Instr.access .clearModeRegister0 = .clear := by decide

theorem witness_WidthFieldSelectsWidth : (0xFC#8).toNat % 4 = (0x00#8).toNat % 4 := by decide

theorem witness_AssemblyIsMostSignificantFirst : [0x80#8, 0#8, 0#8, 1#8].length ≤ 4 := by decide

theorem witness_SignExtensionIsTwosComplement :
    (1 ≤ 1 ∧ 1 ≤ 4 ∧ (0x80#32).toNat < 2 ^ (8 * 1)) ∧ (1 ≤ 4 ∧ 4 ≤ 4 ∧ (0x80000000#32).toNat < 2 ^ (8 * 4)) := by decide

theorem witness_CounterResultLaws :
    (1 ≤ 2 ∧ 2 ≤ 4 ∧ [0x80#8, 0x00#8].length = 2) ∧ (-(2 ^ (8 * 2 - 1) : Int) ≤ -32768 ∧ (-32768 : Int) ≤ 2 ^ (8 * 2 - 1) - 1)
      ∧ (32767 : Int) ≤ 2 ^ (8 * 2 - 1) - 1 := by decide

theorem witness_DataBytesTruncateToLowBytes : 0 ≤ 4 ∧ 4 ≤ 4 := by decide

theorem witness_WiderHostsReceiveTheSameInteger : 32 ≤ 32 ∧ 32 ≤ 64 := by decide

theorem witness_ClearsRunOneOpcodeFrame :
    (block 0#2 [.ok 0xFF#8]).ready ∧ (block 0#2 [.ok 0xFF#8]).willAnswer (okAnswers 0xFF#8 []) ∧
      (block 0#2 [.fail 1]).ready ∧ (block 0#2 [.fail 1]).willAnswer (cutAnswers [] (.fail 1)) ∧
      (block 0#2 [.noAnswer]).ready ∧ (block 0#2 [.noAnswer]).willAnswer (cutAnswers [] .noAnswer) := by decide

theorem witness_LoadsRunOneOpcodeFrame :
    (block 3#2 [.ok 0#8]).ready ∧ (block 3#2 [.ok 0#8]).willAnswer (okAnswers 0#8 []) ∧
      (block 3#2 [.fail 1]).ready ∧ (block 3#2 [.fail 1]).willAnswer (cutAnswers [] (.fail 1)) ∧
      (block 3#2 [.noAnswer]).ready ∧ (block 3#2 [.noAnswer]).willAnswer (cutAnswers [] .noAnswer) := by decide

theorem witness_OneByteReadsReturnTheRawByte :
    (block 2#2 [.ok 0#8, .ok 0xC3#8]).ready ∧ (block 2#2 [.ok 0#8, .ok 0xC3#8]).willAnswer (okAnswers 0#8 [0xC3#8]) ∧
      (block 2#2 [.ok 0#8, .fail 1]).willAnswer (cutAnswers [0#8] (.fail 1)) ∧
      (block 2#2 [.ok 0#8, .noAnswer]).willAnswer (cutAnswers [0#8] .noAnswer) := by decide

theorem witness_CounterReadsReturnTheSignedField :
    (block 2#2 [.ok 0#8, .ok 0xFF#8, .ok 0xFE#8]).ready ∧
      ([0xFF#8, 0xFE#8].length + 1 = (0x60#8 :: List.replicate (block 2#2 []).width 0x00#8).length) ∧
      (block 2#2 [.ok 0#8, .ok 0xFF#8, .ok 0xFE#8]).willAnswer (okAnswers 0#8 [0xFF#8, 0xFE#8]) ∧
      (block 2#2 [.ok 0#8, .ok 0#8, .fail 1]).willAnswer (cutAnswers [0#8, 0#8] (.fail 1)) ∧
      (block 2#2 [.ok 0#8, .ok 0#8, .noAnswer]).willAnswer (cutAnswers [0#8, 0#8] .noAnswer) := by decide

theorem witness_WriteModeRegister0SendsItsByte :
    (block 1#2 [.ok 0#8, .ok 0#8]).ready ∧ (block 1#2 [.ok 0#8, .ok 0#8]).willAnswer (okAnswers 0#8 [0#8]) ∧
      (block 1#2 [.fail 1]).willAnswer (cutAnswers [] (.fail 1)) ∧
      (block 1#2 [.ok 0#8, .noAnswer]).willAnswer (cutAnswers [0#8] .noAnswer) := by decide

theorem witness_WriteModeRegister1SetsTheWidthOnSuccess :
    (block 0#2 [.ok 0#8, .ok 0#8]).ready ∧ (block 0#2 [.ok 0#8, .ok 0#8]).willAnswer (okAnswers 0#8 [0#8]) ∧
      (block 0#2 [.ok 0#8, .fail 1]).willAnswer (cutAnswers [0#8] (.fail 1)) ∧
      (block 0#2 [.noAnswer]).willAnswer (cutAnswers [] .noAnswer) := by decide

theorem witness_WriteDataRegisterSendsLowBytes :
    (block 2#2 [.ok 0#8, .ok 0#8, .ok 0#8]).ready ∧
      (block 2#2 [.ok 0#8, .ok 0#8, .ok 0#8]).willAnswer (okAnswers 0#8 [0#8, 0#8]) ∧
      (block 2#2 [.ok 0#8, .fail 1]).willAnswer (cutAnswers [0#8] (.fail 1)) ∧
      (block 2#2 [.ok 0#8, .ok 0#8, .noAnswer]).willAnswer (cutAnswers [0#8, 0#8] .noAnswer) := by decide

/-- A block of width 1 whose transport answers a data write, a load and a counter read, the read with the byte 0x80. -/
def roundTripBlock : State := block 3#2 [.ok 0#8, .ok 0#8, .ok 0#8, .ok 0#8, .ok 0x80#8]

theorem witness_WrittenDataReadsBack :
    roundTripBlock.willAnswer
        (okAnswers 0#8 [0#8] ++ [.ok 0#8] ++ okAnswers 0#8 (dataBytes roundTripBlock.width 0xFFFFFF80#32)) ∧
      ∃ s₁ s₂ s₃, exec (.writeDataRegister 0xFFFFFF80#32) roundTripBlock = .next s₁ ∧ exec .loadCounter s₁ = .next s₂ ∧
        exec .readCounter s₂ = .next s₃ := ⟨by decide, _, _, _, rfl, rfl, rfl⟩

theorem witness_EveryOperationIsExactlyOneFrame :
    (∃ t, exec .readCounter (block 3#2 [.ok 0#8, .ok 1#8]) = .next t) ∧
      (∃ t, exec .readCounter (block 3#2 [.ok 0#8, .fail 2]) = .next t) ∧
      ∃ t, exec .readCounter (block 3#2 [.noAnswer]) = .next t := ⟨⟨_, rfl⟩, ⟨_, rfl⟩, ⟨_, rfl⟩⟩

theorem witness_FailureEndsTheFrameAtOnce :
    (block 3#2 [.ok 0#8, .fail 2]).ready ∧ [0#8].length ≤ payloadCount (block 3#2 []).wc .readCounter ∧
      (block 3#2 [.ok 0#8, .fail 2]).willAnswer (cutAnswers [0#8] (.fail 2)) := by decide

theorem witness_HangStopsTheBlock :
    (block 3#2 [.ok 0#8, .noAnswer]).ready ∧ [0#8].length ≤ payloadCount (block 3#2 []).wc .readCounter ∧
      (block 3#2 [.ok 0#8, .noAnswer]).willAnswer (cutAnswers [0#8] .noAnswer) ∧
      (block 3#2 [.ok 0#8, .noAnswer]).hostWaits = true ∧
      ((block 3#2 []).setPhase (.hung .loadOtr)).phase = .hung .loadOtr ∧
      isNext (step ((block 3#2 [] [.construct 8]).setPhase (.hung .loadOtr))) = true := by decide

theorem witness_FailureLeavesTheBlockReady :
    ∃ t, exec .loadOtr (block 0#2 [.fail 2]) = .next t ∧ t.response = some (.transportFailure 2) := ⟨_, rfl, rfl⟩

theorem witness_AnsweredOperationsTerminate :
    (block 3#2 [.ok 0#8, .fail 2]).ready ∧ (block 3#2 [.ok 0#8, .fail 2]).answerAt 0 ≠ .noAnswer ∧
      (block 3#2 [.ok 0#8, .fail 2]).answerAt 1 ≠ .noAnswer ∧ payloadCount 3#2 .readCounter = 1 := by decide

theorem witness_SelectIsPairedOncePerOperation :
    (∃ t, exec .loadOtr (block 0#2 [.ok 0#8]) = .next t ∧ t.phase ≠ .hung .loadOtr) ∧
      ∃ t, exec .loadOtr (block 0#2 [.noAnswer]) = .next t ∧ t.phase = .hung .loadOtr :=
  ⟨⟨_, rfl, by decide⟩, ⟨_, rfl, rfl⟩⟩

theorem witness_OnlyFourOperationsUseTheWidth :
    (∃ t, exec (.writeModeRegister1 0x01#8) (block 0#2 [.ok 0#8, .ok 0#8]) = .next t ∧ t.wc ≠ (block 0#2 []).wc) ∧
      (Instr.widthDependent .readModeRegister1 = false ∧ ∀ v, Instr.readModeRegister1 ≠ .writeModeRegister1 v) ∧
      (∃ t, exec .readModeRegister1 (block 0#2 [.ok 0#8, .ok 0x03#8]) = .next t) ∧
      ∃ r, exec .readModeRegister1 (withPeer true) = .refused r :=
  ⟨⟨_, rfl, by decide⟩, ⟨rfl, nofun⟩, ⟨_, rfl⟩, ⟨_, rfl⟩⟩

theorem witness_NewWidthTakesEffectAtOnce :
    ∃ t u r, exec (.writeModeRegister1 0x03#8) (block 0#2 [.ok 0#8, .ok 0#8, .ok 0#8, .ok 0x7F#8]) = .next t ∧
      t.response = some .done ∧ Instr.widthDependent .readCounter = true ∧ exec .readCounter t = .next u ∧
      u.response = some r ∧ r.code = 0 := ⟨_, _, _, rfl, rfl, rfl, rfl, rfl, rfl⟩

theorem witness_MasterClearsAreIndistinguishable :
    (∃ t, exec .clearModeRegister0 (block 2#2 [.ok 0#8]) = .next t ∧ t.phase = .idle) ∧
      ∃ t, exec .clearModeRegister0 (block 2#2 [.noAnswer]) = .next t := ⟨⟨_, rfl, rfl⟩, ⟨_, rfl⟩⟩

theorem witness_DiscardedInBytesDoNotMatter :
    ((block 3#2 [.ok 1#8, .ok 2#8]).answers = .ok 1#8 :: [.ok 2#8] ∧
      ∃ t, exec .readCounter (block 3#2 [.ok 1#8, .ok 2#8]) = .next t) ∧
    Instr.isRead (.writeModeRegister1 0#8) = false ∧ [2#8].length = [0xFF#8].length ∧
      [2#8].length ≤ payloadCount (block 3#2 []).wc (.writeModeRegister1 0#8) ∧
      (block 3#2 [.ok 1#8, .ok 2#8]).answers = okAnswers 1#8 [2#8] ++ [] ∧
      ∃ t, exec (.writeModeRegister1 0#8) (block 3#2 [.ok 1#8, .ok 2#8]) = .next t :=
  ⟨⟨rfl, ⟨_, rfl⟩⟩, rfl, rfl, by decide, rfl, ⟨_, rfl⟩⟩

theorem witness_SequencerMakesOneBusEventAStep :
    (begin .readOtr (block 3#2 [.ok 0#8])).hostWaits = true ∧
      (begin .readOtr (block 3#2 [.ok 0#8])).phase = .op .readOtr ∧
      ((begin .readOtr (block 3#2 [.noAnswer])).setPhase (.pay .readOtr 0 1)).phase = .pay .readOtr 0 1 ∧
      ((begin .readOtr (block 3#2 [.noAnswer])).setPhase (.pay .readOtr 0 1)).out[0]? = some 0#8 ∧
      ((block 3#2 [] [.await]).setPhase (.rel .readOtr (.count 1#32))).hostWaits = true := by decide

theorem witness_SequencerRefinesTheFrame :
    (block 2#2 [.ok 0#8, .ok 0xFF#8, .fail 1]).ready ∧ (block 2#2 [.ok 0#8, .ok 0xFF#8, .fail 1]).hostWaits = true := by
  decide

theorem witness_EveryStepKeepsTheInvariant :
    (State.Of.Inv (block 0#2 [.ok 0#8] [.issue ⟨.loadOtr, none⟩]) ∧
      ∃ t, step (block 0#2 [.ok 0#8] [.issue ⟨.loadOtr, none⟩]) = .next t) ∧
    State.Of.Inv ((begin .loadOtr (block 0#2 [.ok 0#8])).setPhase (.rel .loadOtr .done)) ∧
      ∃ t, step ((begin .loadOtr (block 0#2 [.ok 0#8])).setPhase (.rel .loadOtr .done)) = .next t :=
  ⟨⟨⟨rfl, rfl, fun h => (nomatch h), trivial, by decide, by decide⟩, ⟨_, rfl⟩⟩,
    ⟨rfl, rfl, fun _ => rfl, ⟨⟨rfl, rfl, rfl⟩, rfl⟩, by decide, by decide⟩, ⟨_, rfl⟩⟩

theorem witness_SelectBindingIsConstant :
    ∃ t, step (block 0#2 [.ok 0#8] [.issue ⟨.loadOtr, none⟩]) = .next t ∧ BusEvent.assert 7 ∈ t.trace :=
  ⟨_, rfl, by decide⟩

theorem witness_WidthChangesOnlyByWriteModeRegister1 :
    ∃ t, step ((block 0#2 []).setPhase (.rel (.writeModeRegister1 3#8) .done)) = .next t ∧ t.wc ≠ 0#2 :=
  ⟨_, rfl, by decide⟩

theorem witness_OtherChannelsMoveOnlyTheirLines :
    (6 ≠ (withPeer false [.construct 6]).sel ∧ 6 ∉ (withPeer false [.construct 6]).peers.map Peer.sel) ∧
      (5 ∈ (withPeer false [.peerAssert 5]).peers.map Peer.sel ∧ (withPeer false [.peerAssert 5]).selAsserted = false ∧
        ∀ p ∈ (withPeer false [.peerAssert 5]).peers, p.asserted = false) ∧
      (∃ p ∈ (withPeer true [.peerAssert 5]).peers, p.asserted = true) ∧
      5 ∈ (withPeer true [.peerRelease 5]).peers.map Peer.sel ∧
      8 ∉ (withPeer true [.peerRelease 8]).peers.map Peer.sel := by decide

/-- A width-1 write, a counter read and a 0x10 clear, all answered. -/
def resynchronised : List Instr := [.writeModeRegister1 3#8, .readCounter, .clearModeRegister0]

theorem witness_WidthSafeRunsResynchronise :
    ∃ t, runOps (block 0#2 [.ok 0#8, .ok 0#8, .ok 0#8, .ok 5#8, .ok 0#8]) resynchronised
        = some ([(.writeModeRegister1 3#8, some .done), (.readCounter, some (.count 5#32)),
            (.clearModeRegister0, some .done)], t) ∧
      widthSafe false [(.writeModeRegister1 3#8, some .done), (.readCounter, some (.count 5#32)),
        (.clearModeRegister0, some .done)] = true ∧ Instr.widthDependent .readCounter = true := ⟨_, rfl, rfl, rfl⟩

theorem witness_OpenTypesAreArguments :
    Function.Injective (fun b : Bool => if b then (1 : SelectId) else 0) ∧
      ({ (State.Of.construct true : State.Of Bool Unit) with answers := [.fail ()] }).answers ≠ [] :=
  ⟨by decide, by decide⟩

end Sys2Proof.Tests
end

section
/-! The sequencer's step, one equation for each phase and answer, and from these the bus event each phase makes. -/

namespace Sys2Proof.Machine

section

variable {σ ε : Type} {s : State.Of σ ε} {o : Instr} {k n : Nat} {b r : Byte} {e : ε} {res : Response ε}

/-- The next bus event of operation o is the exchange of byte b (10_state.md R24): the op-code's, or a payload byte's. -/
def State.Of.Sends (s : State.Of σ ε) (o : Instr) (b : Byte) : Prop :=
  (s.phase = .op o ∧ b = s.opb) ∨ ∃ k n, s.phase = .pay o k n ∧ s.out[k]? = some b

theorem State.Of.Sends.of_op (h : s.phase = .op o) : s.Sends o s.opb := .inl ⟨h, rfl⟩

theorem State.Of.Sends.of_pay (h : s.phase = .pay o k n) (hb : s.out[k]? = some b) : s.Sends o b :=
  .inr ⟨k, n, h, hb⟩

theorem busStep_of_idle (h : s.phase = .idle) : busStep s = .next s := by
  simp only [busStep, h]

theorem busStep_of_hung (h : s.phase = .hung o) : busStep s = .fault .hung := by
  simp only [busStep, h]

theorem busStep_of_notInFrame (h : s.phase = .pay o k n) (hb : s.out[k]? = none) :
    busStep s = .fault .notInFrame := by
  simp only [busStep, h, hb]

theorem busStep_of_rel (h : s.phase = .rel o res) :
    busStep s = .next ((s.releaseSelect.setWidthCode (widthAfter o res s.wc)).respond res) := by
  simp only [busStep, h]

theorem busStep_of_op_ok (h : s.phase = .op o) (ha : s.answerAt 0 = .ok r) :
    busStep s = .next ((s.exchanged s.opb (.ok r)).setPhase (afterOpcode o s)) := by
  simp only [busStep, h, xchg_eq, ha]
  rfl

theorem busStep_of_pay_ok (h : s.phase = .pay o k n) (hb : s.out[k]? = some b) (ha : s.answerAt 0 = .ok r) :
    busStep s = .next (((s.exchanged b (.ok r)).collect o r).setPhase (afterPayload o k n (s.collect o r))) := by
  simp only [busStep, h, hb, xchg_eq, ha]
  rfl

/-- A failed exchange ends the frame's exchanges, whichever of them it is (60_exceptions.md R97). -/
theorem busStep_of_fail (h : s.Sends o b) (ha : s.answerAt 0 = .fail e) :
    busStep s = .next ((s.exchanged b (.fail e)).setPhase (.rel o (.transportFailure e))) := by
  obtain ⟨hp, rfl⟩ | ⟨k, n, hp, hb⟩ := h
  · simp only [busStep, hp, xchg_eq, ha]
  · simp only [busStep, hp, hb, xchg_eq, ha]

/-- An exchange never answered leaves the block hung, whichever of them it is (60_exceptions.md R99). -/
theorem busStep_of_noAnswer (h : s.Sends o b) (ha : s.answerAt 0 = .noAnswer) :
    busStep s = .next ((s.exchanged b .noAnswer).setPhase (.hung o)) := by
  obtain ⟨hp, rfl⟩ | ⟨k, n, hp, hb⟩ := h
  · simp only [busStep, hp, xchg_eq, ha]
  · simp only [busStep, hp, hb, xchg_eq, ha]

/-- With no payload the result is pending at once. -/
theorem afterOpcode_eq (o : Instr) (s : State.Of σ ε) :
    afterOpcode o s = if s.count = 0 then .rel o (pendingResult o 0 s.acc) else .pay o 0 s.count := by
  unfold afterOpcode
  split
  · next h => rw [h]
  · rfl

/-- W after a write_mode_register_1 that is done: the operand's two low-order bits (42_write.md R88). -/
theorem widthAfter_writeModeRegister1_done (v : Byte) (c : WidthCode) :
    widthAfter (.writeModeRegister1 v) (.done : Response ε) c = BitVec.ofNat 2 v.toNat := rfl

/-- W is kept at the end of any other frame (10_state.md R33). -/
theorem widthAfter_of_not_write (c : WidthCode) (h : ∀ v, o = .writeModeRegister1 v → res = .done → False) :
    widthAfter o res c = c := by
  unfold widthAfter
  split
  · next v => exact (h v rfl rfl).elim
  · rfl

end

/-- Settles O42: the step is the sequencer's (`step_of_busy`), and each of its equations is read off field by field. -/
theorem sequencerMakesOneBusEventAStep : Obligations.SequencerMakesOneBusEventAStep := by
  intro s hw
  refine ⟨fun o hp => ?opcode, fun o k n b hp hb => ?payload, fun o res hp => ?release⟩
  case opcode =>
    have hs : step s = busStep s := step_of_busy hw (by simp [hp])
    cases ha : s.answerAt 0 with
    | ok r => exact ⟨_, hs.trans (busStep_of_op_ok hp ha), rfl, rfl, rfl, afterOpcode_eq o s⟩
    | fail e => exact ⟨_, hs.trans (busStep_of_fail (.of_op hp) ha), rfl, rfl, rfl, rfl⟩
    | noAnswer => exact ⟨_, hs.trans (busStep_of_noAnswer (.of_op hp) ha), rfl, rfl, rfl, rfl⟩
  case payload =>
    have hs : step s = busStep s := step_of_busy hw (by simp [hp])
    cases ha : s.answerAt 0 with
    | ok r => exact ⟨_, hs.trans (busStep_of_pay_ok hp hb ha), rfl, rfl, rfl, rfl, rfl⟩
    | fail e => exact ⟨_, hs.trans (busStep_of_fail (.of_pay hp hb) ha), rfl, rfl, rfl, rfl⟩
    | noAnswer => exact ⟨_, hs.trans (busStep_of_noAnswer (.of_pay hp hb) ha), rfl, rfl, rfl, rfl⟩
  case release =>
    have hs : step s = busStep s := step_of_busy hw (by simp [hp])
    refine ⟨_, hs.trans (busStep_of_rel hp), rfl, rfl, rfl, rfl, ?_⟩
    rw [State.Of.respond_wc, State.Of.setWidthCode_wc]
    split
    · next v => exact widthAfter_writeModeRegister1_done v s.wc
    · next h => exact widthAfter_of_not_write s.wc h

end Sys2Proof.Machine
end

section
/-! The step commutes with every renaming of select identifiers and failure values: each update, each reading and each
bus event does, and so does the step. -/

namespace Sys2Proof.Machine

section

variable {σ σ' ε ε' : Type} (f : σ → σ') (g : ε → ε') (s : State.Of σ ε)

/-! ## The fields of a renamed state -/

@[simp] theorem State.Of.rename_wc : (s.rename f g).wc = s.wc := rfl
@[simp] theorem State.Of.rename_sel : (s.rename f g).sel = f s.sel := rfl
@[simp] theorem State.Of.rename_phase : (s.rename f g).phase = s.phase.rename g := rfl
@[simp] theorem State.Of.rename_opb : (s.rename f g).opb = s.opb := rfl
@[simp] theorem State.Of.rename_count : (s.rename f g).count = s.count := rfl
@[simp] theorem State.Of.rename_out : (s.rename f g).out = s.out := rfl
@[simp] theorem State.Of.rename_acc : (s.rename f g).acc = s.acc := rfl
@[simp] theorem State.Of.rename_selAsserted : (s.rename f g).selAsserted = s.selAsserted := rfl
@[simp] theorem State.Of.rename_port : (s.rename f g).port = s.port.map (HostEvent.rename f) := rfl
@[simp] theorem State.Of.rename_peers : (s.rename f g).peers = s.peers.map (Peer.rename f) := rfl

/-! ## Readings -/

@[simp] theorem Phase.isIdle_rename (p : Phase ε) : (p.rename g).isIdle = p.isIdle := by
  cases p <;> rfl

@[simp] theorem State.Of.busHeld_rename : (s.rename f g).busHeld = s.busHeld := by
  simp only [State.Of.busHeld, State.Of.rename_peers, List.any_map]
  rfl

@[simp] theorem State.Of.refusal_rename : (s.rename f g).refusal = s.refusal := by
  simp only [State.Of.refusal, State.Of.rename_phase, Phase.isIdle_rename, State.Of.busHeld_rename]

/-- A listed answer is renamed with the state; a free one is a value of its own in each type. -/
theorem State.Of.answerAt_zero_rename (ha : s.answers ≠ []) :
    (s.rename f g).answerAt 0 = renameAnswer g (s.answerAt 0) := by
  obtain ⟨a, as, has⟩ := List.exists_cons_of_ne_nil ha
  simp [State.Of.answerAt, State.Of.rename, has]

theorem State.Of.Sends.rename {s : State.Of σ ε} {o : Instr} {b : Byte} (h : s.Sends o b) :
    (s.rename f g).Sends o b := by
  obtain ⟨hp, hb⟩ | ⟨k, n, hp, hb⟩ := h
  · exact .inl ⟨by rw [State.Of.rename_phase, hp]; rfl, hb⟩
  · exact .of_pay (by rw [State.Of.rename_phase, hp]; rfl) hb

@[simp] theorem pendingResult_rename (o : Instr) (n : Nat) (acc : Pattern) :
    (pendingResult o n acc : Response ε).rename g = pendingResult o n acc := by
  unfold pendingResult
  cases o.format <;> rfl

@[simp] theorem afterOpcode_rename (o : Instr) : afterOpcode o (s.rename f g) = (afterOpcode o s).rename g := by
  unfold afterOpcode
  rw [State.Of.rename_count, State.Of.rename_acc]
  split <;> simp [Phase.rename]

@[simp] theorem afterPayload_rename (o : Instr) (k n : Nat) :
    afterPayload o k n (s.rename f g) = (afterPayload o k n s).rename g := by
  unfold afterPayload
  rw [State.Of.rename_acc]
  split <;> simp [Phase.rename]

/-- Whether a write_mode_register_1 is done does not rest on failure values. -/
@[simp] theorem widthAfter_rename (o : Instr) (res : Response ε) (c : WidthCode) :
    widthAfter o (res.rename g) c = widthAfter o res c := by
  cases res <;> cases o <;> rfl

/-! ## Updates -/

@[simp] theorem State.Of.rename_setPhase (p : Phase ε) :
    (s.setPhase p).rename f g = (s.rename f g).setPhase (p.rename g) := rfl

@[simp] theorem State.Of.rename_collect (o : Instr) (b : Byte) :
    (s.collect o b).rename f g = (s.rename f g).collect o b := rfl

@[simp] theorem State.Of.rename_setWidthCode (c : WidthCode) :
    (s.setWidthCode c).rename f g = (s.rename f g).setWidthCode c := rfl

@[simp] theorem State.Of.rename_respond (r : Response ε) :
    (s.respond r).rename f g = (s.rename f g).respond (r.rename g) := rfl

@[simp] theorem State.Of.rename_setPort (p : List (HostEvent σ)) :
    (s.setPort p).rename f g = (s.rename f g).setPort (p.map (HostEvent.rename f)) := rfl

@[simp] theorem State.Of.rename_setPeers (p : List (Peer σ)) :
    (s.setPeers p).rename f g = (s.rename f g).setPeers (p.map (Peer.rename f)) := rfl

@[simp] theorem State.Of.rename_releaseSelect : s.releaseSelect.rename f g = (s.rename f g).releaseSelect := by
  simp [State.Of.rename, State.Of.releaseSelect, BusEvent.rename]

@[simp] theorem State.Of.rename_exchanged (b : Byte) (a : Answer ε) :
    (s.exchanged b a).rename f g = (s.rename f g).exchanged b (renameAnswer g a) := by
  simp [State.Of.rename, State.Of.exchanged, BusEvent.rename]

@[simp] theorem rename_begin (i : Instr) : (begin i s).rename f g = begin i (s.rename f g) := by
  simp [State.Of.rename, begin, openFrame, State.Of.loadFrame, State.Of.assertSelect, BusEvent.rename, Phase.rename]

/-! ## The block's own steps -/

theorem accept_rename (i : Instr) : accept i (s.rename f g) = renameResult f g (accept i s) := by
  unfold accept
  rw [State.Of.refusal_rename]
  cases s.refusal with
  | some r => rfl
  | none => exact congrArg Host.Outcome.next (rename_begin f g s i).symm

theorem issue_rename (c : Command) : issue c (s.rename f g) = renameResult f g (issue c s) := by
  unfold issue
  cases decodeCommand c with
  | error e => rfl
  | ok i => exact accept_rename f g s i

/-- An exchange that is not answered `ok` ends alike in both blocks, whichever exchange it is. -/
theorem busStep_rename_of_sends {s : State.Of σ ε} {o : Instr} {b : Byte} (h : s.Sends o b) (ha : s.answers ≠ [])
    (hok : ∀ r, s.answerAt 0 = .ok r → (s.rename f g).answerAt 0 = .ok r →
      busStep (s.rename f g) = renameResult f g (busStep s)) :
    busStep (s.rename f g) = renameResult f g (busStep s) := by
  have hr := s.answerAt_zero_rename f g ha
  cases hs : s.answerAt 0 with
  | ok r => exact hok r hs (by rw [hr, hs]; rfl)
  | fail e =>
    rw [busStep_of_fail h hs, busStep_of_fail (e := g e) (h.rename f g) (by rw [hr, hs]; rfl)]
    simp [renameResult, renameAnswer, Phase.rename, Response.rename]
  | noAnswer =>
    rw [busStep_of_noAnswer h hs, busStep_of_noAnswer (h.rename f g) (by rw [hr, hs]; rfl)]
    simp [renameResult, renameAnswer, Phase.rename]

/-- The block's own bus event, while the next answer is listed. -/
theorem busStep_rename (ha : s.answers ≠ []) : busStep (s.rename f g) = renameResult f g (busStep s) := by
  cases hp : s.phase with
  | idle =>
    have hp' : (s.rename f g).phase = .idle := by rw [State.Of.rename_phase, hp]; rfl
    rw [busStep_of_idle hp, busStep_of_idle hp']
    rfl
  | hung o =>
    have hp' : (s.rename f g).phase = .hung o := by rw [State.Of.rename_phase, hp]; rfl
    rw [busStep_of_hung hp, busStep_of_hung hp']
    rfl
  | op o =>
    have hp' : (s.rename f g).phase = .op o := by rw [State.Of.rename_phase, hp]; rfl
    refine busStep_rename_of_sends f g (.of_op hp) ha fun r hs hs' => ?_
    rw [busStep_of_op_ok hp hs, busStep_of_op_ok hp' hs']
    simp [renameResult, renameAnswer]
  | pay o k n =>
    have hp' : (s.rename f g).phase = .pay o k n := by rw [State.Of.rename_phase, hp]; rfl
    cases hb : s.out[k]? with
    | none =>
      rw [busStep_of_notInFrame hp hb, busStep_of_notInFrame hp' hb]
      rfl
    | some b =>
      refine busStep_rename_of_sends f g (.of_pay hp hb) ha fun r hs hs' => ?_
      rw [busStep_of_pay_ok hp hb hs, busStep_of_pay_ok hp' hb hs', ← State.Of.rename_collect, afterPayload_rename]
      simp [renameResult, renameAnswer]
  | rel o res =>
    have hp' : (s.rename f g).phase = .rel o (res.rename g) := by rw [State.Of.rename_phase, hp]; rfl
    rw [busStep_of_rel hp, busStep_of_rel hp']
    simp [renameResult]

/-! ## The other channels: distinct lines stay distinct -/

variable [DecidableEq σ] [DecidableEq σ'] {f} (hf : Function.Injective f) (sel : σ)
include hf

theorem State.Of.hasPeer_rename : (s.rename f g).hasPeer (f sel) = s.hasPeer sel := by
  rw [Bool.eq_iff_iff]
  simp [State.Of.hasPeer, Peer.rename, hf.eq_iff]

theorem State.Of.bound_rename : (s.rename f g).bound (f sel) = s.bound sel := by
  unfold State.Of.bound
  rw [s.hasPeer_rename g hf sel, State.Of.rename_sel, Bool.eq_iff_iff]
  simp [hf.eq_iff]

theorem setLine_rename (level : Bool) (peers : List (Peer σ)) :
    setLine (f sel) level (peers.map (Peer.rename f)) = (setLine sel level peers).map (Peer.rename f) := by
  simp only [setLine, List.map_map]
  refine List.map_congr_left fun p _ => ?_
  simp only [Function.comp, Peer.rename, hf.eq_iff]
  split <;> rfl

theorem constructPeer_rename :
    constructPeer (f sel) (s.rename f g) = renameResult f g (constructPeer sel s) := by
  unfold constructPeer
  rw [s.bound_rename g hf sel]
  split
  · rfl
  · simp [renameResult, Peer.rename]

theorem assertPeer_rename : assertPeer (f sel) (s.rename f g) = renameResult f g (assertPeer sel s) := by
  unfold assertPeer
  rw [s.hasPeer_rename g hf sel, State.Of.busHeld_rename, State.Of.rename_selAsserted]
  split
  · rfl
  · split
    · rfl
    · simp [renameResult, setLine_rename hf]

theorem releasePeer_rename : releasePeer (f sel) (s.rename f g) = renameResult f g (releasePeer sel s) := by
  unfold releasePeer
  rw [s.hasPeer_rename g hf sel]
  split
  · rfl
  · simp [renameResult, setLine_rename hf]

/-! ## The step -/

/-- The step over any two pairs of open types, while the next answer is listed. -/
theorem advance_rename (ha : s.answers ≠ []) : advance (s.rename f g) = renameResult f g (advance s) := by
  unfold advance
  rw [State.Of.rename_port]
  cases s.port with
  | nil => exact busStep_rename f g s ha
  | cons event rest =>
    cases event with
    | await =>
      simp only [List.map_cons, HostEvent.rename, State.Of.rename_phase, Phase.isIdle_rename]
      split
      · rfl
      · exact busStep_rename f g s ha
    | issue c => exact issue_rename f g (s.setPort rest) c
    | construct sel => exact constructPeer_rename g (s.setPort rest) hf sel
    | peerAssert sel => exact assertPeer_rename g (s.setPort rest) hf sel
    | peerRelease sel => exact releasePeer_rename g (s.setPort rest) hf sel

end

/-- Settles O50: `advance_rename` with the closed machine's types as the second pair. -/
theorem openTypesAreArguments : Obligations.OpenTypesAreArguments := by
  intro σ ε _ f g s hf ha
  exact advance_rename g s hf ha

end Sys2Proof.Machine
end

section
/-! The start of a frame and the width: the registers an operation loads, the width field a byte selects, and the four
operations that use W. -/

namespace Sys2Proof

/-! ## The width field -/

/-- The width field is the byte modulo 4 (10_state.md R25). -/
@[simp] theorem toNat_widthField (v : Byte) : (widthField v).toNat = v.toNat % 4 := by
  rw [widthField, BitVec.extractLsb'_toNat, Nat.shiftRight_zero]

/-- Settles O16: the width field read as a number (`toNat_widthField`). -/
theorem widthFieldSelectsWidth : Obligations.WidthFieldSelectsWidth := by
  refine ⟨fun v => ?_, fun u v h => ?_, fun c => ⟨widthOf_pos c, widthOf_le c⟩⟩
  · rw [widthOf, toNat_widthField]
  · exact BitVec.eq_of_toNat_eq (by rw [toNat_widthField, toNat_widthField, h])

end Sys2Proof

namespace Sys2Proof.Machine

section

variable {σ ε : Type} (i : Instr) (s : State.Of σ ε)

/-! ## The first bus event of an operation -/

@[simp] theorem begin_wc : (begin i s).wc = s.wc := rfl
@[simp] theorem begin_sel : (begin i s).sel = s.sel := rfl
@[simp] theorem begin_phase : (begin i s).phase = .op i := rfl
@[simp] theorem begin_opb : (begin i s).opb = opcode i := rfl
@[simp] theorem begin_out : (begin i s).out = outBytes s.wc i := rfl
@[simp] theorem begin_acc : (begin i s).acc = 0#32 := rfl
@[simp] theorem begin_selAsserted : (begin i s).selAsserted = true := rfl
@[simp] theorem begin_response : (begin i s).response = none := rfl
@[simp] theorem begin_peers : (begin i s).peers = s.peers := rfl
@[simp] theorem begin_hostWaits : (begin i s).hostWaits = s.hostWaits := rfl
@[simp] theorem begin_trace : (begin i s).trace = s.trace ++ [.assert s.sel] := rfl

@[simp] theorem begin_count : (begin i s).count = payloadCount s.wc i := length_outBytes s.wc i

/-- The frame's registers are loaded from the operation and from W at that moment (10_state.md R26). -/
theorem begin_frameOf : (begin i s).frameOf i := ⟨rfl, rfl, begin_count i s⟩

end

/-- Settles O41: each register of `begin` is read off; the payload count is the length of the out-bytes. -/
theorem frameRegistersAreLoadedAtTheStart : Obligations.FrameRegistersAreLoadedAtTheStart := by
  intro i s
  refine ⟨rfl, rfl, begin_count i s, ?_, rfl, rfl, rfl, rfl, rfl, rfl⟩
  rw [begin_out, length_outBytes]

/-! ## The operations that use W -/

section

variable {ε : Type} {i : Instr}

/-- W changes at the end of a frame only for a write_mode_register_1 that is done (42_write.md R88). -/
theorem widthAfter_ne {res : Response ε} {c : WidthCode} (h : widthAfter i res c ≠ c) :
    ∃ v, i = .writeModeRegister1 v ∧ res = .done ∧ widthAfter i res c = BitVec.ofNat 2 v.toNat := by
  by_contra hno
  refine h (widthAfter_of_not_write c fun v hi hr => hno ⟨v, hi, hr, ?_⟩)
  rw [hi, hr, widthAfter_writeModeRegister1_done]

/-- W is kept by every operation but write_mode_register_1 (10_state.md R33). -/
theorem widthAfter_of_ne (hi : ∀ v, i ≠ .writeModeRegister1 v) (res : Response ε) (c : WidthCode) :
    widthAfter i res c = c :=
  widthAfter_of_not_write c fun v h _ => hi v h

theorem widthDependent_iff_format : i.widthDependent = true ↔ i.format = .opInW ∨ i.format = .opOutW := by
  simp [Instr.widthDependent]

theorem widthDependent_iff :
    i.widthDependent = true ↔ i = .readCounter ∨ i = .readOtr ∨ ∃ value, i = .writeDataRegister value := by
  rw [widthDependent_iff_format]
  cases i <;> simp [Instr.format]

theorem payloadCount_of_widthDependent (h : i.widthDependent = true) (c : WidthCode) :
    payloadCount c i = widthOf c := by
  obtain hf | hf := widthDependent_iff_format.mp h <;> rw [payloadCount, hf, Format.payload]

/-- The other eleven operations send the same bytes whatever W is. -/
theorem outBytes_of_not_widthDependent (h : i.widthDependent = false) (c c' : WidthCode) :
    outBytes c i = outBytes c' i := by
  cases i
  case readCounter | readOtr | writeDataRegister => cases h
  all_goals rfl

theorem payloadCount_of_not_widthDependent (h : i.widthDependent = false) (c c' : WidthCode) :
    payloadCount c i = payloadCount c' i := by
  rw [← length_outBytes, ← length_outBytes, outBytes_of_not_widthDependent h c c']

/-- Their result is made of the in-bytes alone. -/
theorem resultOf_of_not_widthDependent (h : i.widthDependent = false) (n n' : Nat) (ins : List Byte) :
    resultOf i n ins = resultOf i n' ins := by
  cases i
  case readCounter | readOtr | writeDataRegister => cases h
  all_goals rfl

end

/-- An operation is refused for the block's own reason, whatever the operation (60_exceptions.md R98). -/
theorem exec_refused_iff {i : Instr} {s : State} {r : Refusal} : exec i s = .refused r ↔ s.refusal = some r := by
  rw [exec_eq_operate, operate]
  cases s.refusal <;> simp

/-- W differs after an operation only if it is a write_mode_register_1 that responded done (10_state.md R33). -/
theorem exec_wc_ne {i : Instr} {s t : State} (h : exec i s = .next t) (hne : t.wc ≠ s.wc) :
    ∃ v, i = .writeModeRegister1 v ∧ t.response = some .done ∧ t.wc = BitVec.ofNat 2 v.toNat := by
  obtain ⟨-, ⟨b0, ins, -, -, rfl⟩ | ⟨oks, e, -, -, rfl⟩ | ⟨oks, -, -, rfl⟩⟩ := exec_cases h
  · obtain ⟨v, hi, hres, hwc⟩ := widthAfter_ne hne
    exact ⟨v, hi, congrArg some hres, hwc⟩
  · exact absurd rfl hne
  · exact absurd rfl hne

/-- The ten operations that do not use W give, at another W, the same next state but for W (10_state.md R33). -/
theorem exec_setWidthCode {i : Instr} {s t : State} (hd : i.widthDependent = false)
    (hi : ∀ v, i ≠ .writeModeRegister1 v) (c : WidthCode) (h : exec i s = .next t) :
    exec i (s.setWidthCode c) = .next (t.setWidthCode c) := by
  have hout : outBytes (s.setWidthCode c).wc i = outBytes s.wc i := outBytes_of_not_widthDependent hd _ _
  have hpay : payloadCount s.wc i = payloadCount (s.setWidthCode c).wc i := payloadCount_of_not_widthDependent hd _ _
  obtain ⟨hr, ⟨b0, ins, hl, hw, rfl⟩ | ⟨oks, e, hl, hw, rfl⟩ | ⟨oks, hl, hw, rfl⟩⟩ := exec_cases h
  · have hc := exec_of_ok (s := s.setWidthCode c) i hr (hl.trans hpay) hw
    rw [hc, hout, finishOf, finishOf, widthAfter_of_ne hi, widthAfter_of_ne hi,
      resultOf_of_not_widthDependent hd _ s.width]
    rfl
  · have hc := exec_of_fail (s := s.setWidthCode c) i hr (hpay ▸ hl) hw
    rw [hc, hout]
    rfl
  · have hc := exec_of_hang (s := s.setWidthCode c) i hr (hpay ▸ hl) hw
    rw [hc, hout]
    rfl

/-- Settles O37: who writes W (`exec_wc_ne`), who reads it (`widthDependent_iff`), and that the other ten run alike at
another W (`exec_setWidthCode`). -/
theorem onlyFourOperationsUseTheWidth : Obligations.OnlyFourOperationsUseTheWidth := by
  refine ⟨fun i s t => exec_wc_ne, fun i => widthDependent_iff, fun i c h => payloadCount_of_widthDependent h c,
    fun i s c hd hi => ⟨fun t ht => ⟨?keeps, exec_setWidthCode hd hi c ht⟩, fun r hr => ?refused⟩⟩
  case keeps =>
    by_contra hne
    obtain ⟨v, hv, -, -⟩ := exec_wc_ne ht hne
    exact hi v hv
  case refused =>
    rw [exec_refused_iff] at hr ⊢
    exact hr

end Sys2Proof.Machine
end

section
/-! Refinement: the machine's steps from an operation's first bus event end where `exec` does. The steps keep the
state `exec` keeps, with PH beside it; the exchanges go hand in hand by induction over the payload's out-bytes, and the
release is the last step. -/

namespace Sys2Proof.Machine

section

variable {σ ε : Type}

/-! ## The phase of a frame -/

/-- A block whose next bus event is an exchange is busy. -/
theorem State.Of.Sends.phase_ne_idle {s : State.Of σ ε} {o : Instr} {b : Byte} (h : s.Sends o b) :
    s.phase ≠ .idle := by
  obtain ⟨hp, -⟩ | ⟨k, n, hp, -⟩ := h <;> rw [hp] <;> nofun

/-- PH when k of the n payload exchanges are done: the next one, or the release with the result pending. -/
def exchangePhase (o : Instr) (k n : Nat) (s : State.Of σ ε) : Phase ε :=
  if k < n then .pay o k n else .rel o (pendingResult o n s.acc)

/-- The first payload exchange is the one that follows the op-code's. -/
theorem afterOpcode_eq_exchangePhase (o : Instr) (s : State.Of σ ε) :
    afterOpcode o s = exchangePhase o 0 s.count s := by
  unfold afterOpcode exchangePhase
  by_cases h : s.count = 0
  · rw [if_pos h, if_neg (by omega)]
  · rw [if_neg h, if_pos (by omega)]

theorem afterPayload_eq_exchangePhase (o : Instr) (k n : Nat) (s : State.Of σ ε) :
    afterPayload o k n s = exchangePhase o (k + 1) n s := rfl

/-- The sequencer's state after the exchanges of a frame of n payload bytes, from what the frame primitive knows there:
PH names the result, the failure, or the hang. -/
def afterExchanges (o : Instr) (n : Nat) : FrameEnd ε × State.Of σ ε → State.Of σ ε
  | (.ok _, s) => s.setPhase (.rel o (pendingResult o n s.acc))
  | (.fail e, s) => s.setPhase (.rel o (.transportFailure e))
  | (.hang, s) => s.setPhase (.hung o)

/-- Only that the exchanges were answered matters to PH, not the in-bytes: they are in ACC. -/
theorem afterExchanges_payload_cons {o : Instr} {n : Nat} {b r : Byte} {outs : List Byte} {s : State.Of σ ε}
    (ha : s.answerAt 0 = .ok r) :
    afterExchanges o n (payload o (b :: outs) s)
      = afterExchanges o n (payload o outs ((s.exchanged b (.ok r)).collect o r)) := by
  rw [payload, xchg_eq, ha]
  dsimp only
  cases payload o outs ((s.exchanged b (.ok r)).collect o r) with
  | mk e u => cases e <;> rfl

/-- What the exchanges leave in ACC when all are answered. -/
theorem payload_ok {o : Instr} {outs ins : List Byte} {s t : State.Of σ ε} (h : payload o outs s = (.ok ins, t)) :
    ins.length = outs.length ∧ t.acc = if o.isRead then ins.foldl accStep s.acc else s.acc := by
  obtain ⟨ins', hl, hw⟩ | ⟨oks, e, hl, hw⟩ | ⟨oks, hl, hw⟩ := State.Of.answers_cases outs.length s
  · rw [payload_of_ok o outs ins' s hl hw] at h
    cases h
    exact ⟨hl, rfl⟩
  · rw [payload_of_fail o e outs oks s hl hw] at h
    cases h
  · rw [payload_of_hang o outs oks s hl hw] at h
    cases h

/-- A single in-byte is the low byte of the accumulator. -/
theorem setWidth_assemble_singleton (b : Byte) : (assemble [b]).setWidth 8 = b := by
  simp [assemble, accStep]

end

/-- The result the sequencer holds pending is the one `exec` makes of the in-bytes (41_read.md R76, R79 to R82). -/
theorem pendingResult_eq_resultOf {i : Instr} {c : WidthCode} {ins : List Byte} {acc : Pattern}
    (hl : ins.length = payloadCount c i) (hacc : acc = if i.isRead then assemble ins else 0#32) :
    pendingResult i (payloadCount c i) acc = resultOf i (widthOf c) ins := by
  cases hf : i.format with
  | op | opOut1 | opOutW => simp only [pendingResult, resultOf, hf]
  | opIn1 =>
    obtain ⟨b, rfl⟩ := List.length_eq_one_iff.mp (by simpa [payloadCount, hf, Format.payload] using hl)
    simp [pendingResult, resultOf, byteResult, hacc, Instr.isRead, hf, setWidth_assemble_singleton]
  | opInW =>
    simp [pendingResult, resultOf, countResult, hacc, Instr.isRead, payloadCount, Format.payload, hf]

/-! ## The steps of a frame -/

section

variable {s : State} {o : Instr} {b r : Byte} {e : TransportError}

theorem step_of_fail (h : s.Sends o b) (ha : s.answerAt 0 = .fail e) (hw : s.hostWaits = true) :
    step s = .next ((s.exchanged b (.fail e)).setPhase (.rel o (.transportFailure e))) :=
  (step_of_busy hw h.phase_ne_idle).trans (busStep_of_fail h ha)

theorem step_of_noAnswer (h : s.Sends o b) (ha : s.answerAt 0 = .noAnswer) (hw : s.hostWaits = true) :
    step s = .next ((s.exchanged b .noAnswer).setPhase (.hung o)) :=
  (step_of_busy hw h.phase_ne_idle).trans (busStep_of_noAnswer h ha)

theorem step_of_op_ok (hp : s.phase = .op o) (ha : s.answerAt 0 = .ok r) (hw : s.hostWaits = true) :
    step s = .next ((s.exchanged s.opb (.ok r)).setPhase (exchangePhase o 0 s.count s)) := by
  rw [step_of_busy hw (by simp [hp]), busStep_of_op_ok hp ha, afterOpcode_eq_exchangePhase]

/-- The payload exchange k of n, from a state with PH beside it. -/
theorem step_setPhase_pay_ok {k n : Nat} (hb : s.out[k]? = some b) (ha : s.answerAt 0 = .ok r)
    (hw : s.hostWaits = true) :
    step (s.setPhase (.pay o k n)) = .next (((s.exchanged b (.ok r)).collect o r).setPhase
      (exchangePhase o (k + 1) n ((s.exchanged b (.ok r)).collect o r))) :=
  (step_of_busy (s := s.setPhase (.pay o k n)) hw nofun).trans (busStep_of_pay_ok rfl hb ha)

/-- The release ends the frame with the response. -/
theorem step_setPhase_rel (hw : s.hostWaits = true) (res : Response TransportError) :
    step (s.setPhase (.rel o res))
      = .next ((s.releaseSelect.setWidthCode (widthAfter o res s.wc)).respond res) :=
  (step_of_busy (s := s.setPhase (.rel o res)) hw nofun).trans (busStep_of_rel rfl)

end

/-- The payload's exchanges, one a step: the steps end where the frame primitive's payload does. -/
theorem run_payload (o : Instr) (outs : List Byte) : ∀ (k : Nat) (s : State), s.out.drop k = outs →
    s.hostWaits = true → ∃ j, j ≤ outs.length ∧
      Host.Core.run Sys2Proof.core j (s.setPhase (exchangePhase o k s.out.length s))
        = .next (afterExchanges o s.out.length (payload o outs s)) := by
  induction outs with
  | nil =>
    intro k s hk _
    have hlen : ¬k < s.out.length := not_lt.mpr (List.drop_eq_nil_iff.mp hk)
    refine ⟨0, Nat.le_refl 0, ?_⟩
    rw [exchangePhase, if_neg hlen]
    rfl
  | cons b outs ih =>
    intro k s hk hw
    obtain ⟨hb, hrest⟩ : s.out[k]? = some b ∧ s.out.drop (k + 1) = outs := by
      rw [← List.head?_drop, ← List.tail_drop, hk]
      exact ⟨rfl, rfl⟩
    have hsends : (s.setPhase (.pay o k s.out.length)).Sends o b := .of_pay rfl hb
    rw [exchangePhase, if_pos (List.getElem?_eq_some_iff.mp hb).1]
    cases ha : s.answerAt 0 with
    | ok r =>
      obtain ⟨j, hj, hrun⟩ := ih (k + 1) ((s.exchanged b (.ok r)).collect o r) hrest hw
      refine ⟨j + 1, Nat.succ_le_succ hj, ?_⟩
      rw [afterExchanges_payload_cons ha]
      exact (run_succ_of_next j (step_setPhase_pay_ok hb ha hw)).trans hrun
    | fail e =>
      refine ⟨1, by simp, ?_⟩
      rw [run_succ_of_next 0 (step_of_fail hsends ha hw), payload, xchg_eq, ha]
      rfl
    | noAnswer =>
      refine ⟨1, by simp, ?_⟩
      rw [run_succ_of_next 0 (step_of_noAnswer hsends ha hw), payload, xchg_eq, ha]
      rfl

/-- A frame's exchanges, the op-code's first: from its first bus event the steps end where the frame primitive's
exchanges do. -/
theorem run_begin (i : Instr) {s : State} (hw : s.hostWaits = true) :
    ∃ j, j ≤ payloadCount s.wc i + 1 ∧ Host.Core.run Sys2Proof.core j (begin i s)
      = .next (afterExchanges i (payloadCount s.wc i)
          (frameExchanges i (opcode i) (outBytes s.wc i) (begin i s))) := by
  have hsends : (begin i s).Sends i (opcode i) := .of_op rfl
  cases ha : (begin i s).answerAt 0 with
  | ok r =>
    obtain ⟨j, hj, hrun⟩ := run_payload i (outBytes s.wc i) 0 ((begin i s).exchanged (opcode i) (.ok r)) rfl hw
    have hlen : ((begin i s).exchanged (opcode i) (.ok r)).out.length = payloadCount s.wc i := length_outBytes s.wc i
    rw [hlen] at hrun
    rw [length_outBytes] at hj
    have hstep := step_of_op_ok (s := begin i s) rfl ha hw
    rw [begin_count] at hstep
    refine ⟨j + 1, Nat.succ_le_succ hj, ?_⟩
    rw [frameExchanges, xchg_eq, ha]
    exact (run_succ_of_next j hstep).trans hrun
  | fail e =>
    refine ⟨1, by simp, ?_⟩
    rw [run_succ_of_next 0 (step_of_fail hsends ha hw), frameExchanges, xchg_eq, ha]
    rfl
  | noAnswer =>
    refine ⟨1, by simp, ?_⟩
    rw [run_succ_of_next 0 (step_of_noAnswer hsends ha hw), frameExchanges, xchg_eq, ha]
    rfl

/-- How `exec` ends after the exchanges of its frame. -/
theorem exec_eq_settle (i : Instr) {s : State} (hr : s.ready) :
    exec i s = .next (settle (finishOf i s.width)
      (closeFrame i (frameExchanges i (opcode i) (outBytes s.wc i) (begin i s)))) := by
  rw [exec_eq_operate, operate, s.refusal_eq_none_iff.mpr hr]
  rfl

/-- What the op-code's exchange and the payload's leave in ACC when all are answered. -/
theorem frameExchanges_begin_ok {i : Instr} {s u : State} {ins : List Byte}
    (h : frameExchanges i (opcode i) (outBytes s.wc i) (begin i s) = (.ok ins, u)) :
    ins.length = payloadCount s.wc i ∧ u.acc = if i.isRead then assemble ins else 0#32 := by
  rw [frameExchanges, xchg_eq] at h
  cases ha : (begin i s).answerAt 0 with
  | ok r =>
    rw [ha] at h
    obtain ⟨hl, hacc⟩ := payload_ok h
    exact ⟨hl.trans (length_outBytes s.wc i), hacc⟩
  | fail e => rw [ha] at h; cases h
  | noAnswer => rw [ha] at h; cases h

/-- The exchanges of a frame leave the host's list alone. -/
theorem payload_hostWaits (o : Instr) (outs : List Byte) (s : State) :
    (payload o outs s).2.hostWaits = s.hostWaits := by
  obtain ⟨ins, hl, hw⟩ | ⟨oks, e, hl, hw⟩ | ⟨oks, hl, hw⟩ := State.Of.answers_cases outs.length s
  · rw [payload_of_ok o outs ins s hl hw]; rfl
  · rw [payload_of_fail o e outs oks s hl hw]; rfl
  · rw [payload_of_hang o outs oks s hl hw]; rfl

theorem frameExchanges_hostWaits (o : Instr) (opb : Byte) (outs : List Byte) (s : State) :
    (frameExchanges o opb outs s).2.hostWaits = s.hostWaits := by
  rw [frameExchanges, xchg_eq]
  cases s.answerAt 0 with
  | ok r => exact payload_hostWaits o outs (s.exchanged opb (.ok r))
  | fail e => rfl
  | noAnswer => rfl

/-- A failure leaves W as it is (60_exceptions.md R97). -/
theorem widthAfter_transportFailure (o : Instr) (e : TransportError) (c : WidthCode) :
    widthAfter o (.transportFailure e) c = c :=
  widthAfter_of_not_write c nofun

/-- One step after a run. -/
theorem run_snoc {j : Nat} : ∀ {s t u : State}, Host.Core.run Sys2Proof.core j s = .next t → step t = .next u →
    Host.Core.run Sys2Proof.core (j + 1) s = .next u := by
  induction j with
  | zero =>
    intro s t u hrun ht
    cases hrun
    exact run_succ_of_next 0 ht
  | succ j ih =>
    intro s t u hrun ht
    cases hs : step s with
    | next s' =>
      exact (run_succ_of_next (j + 1) hs).trans (ih ((run_succ_of_next j hs).symm.trans hrun) ht)
    | fault r => exact absurd hrun (by simp [Host.Core.run, core, hs])
    | refused r => exact absurd hrun (by simp [Host.Core.run, core, hs])

/-- From an operation's first bus event at most six steps end where `exec` does: the op-code's exchange, at most four
payload exchanges, and the release. -/
theorem run_begin_eq_exec (i : Instr) {s : State} (hr : s.ready) (hw : s.hostWaits = true) :
    ∃ k, k ≤ 6 ∧ Host.Core.run Sys2Proof.core k (begin i s) = exec i s := by
  obtain ⟨j, hj, hrun⟩ := run_begin i hw
  have hmax : payloadCount s.wc i ≤ 4 := payloadCount_le s.wc i
  have hwaits := (frameExchanges_hostWaits i (opcode i) (outBytes s.wc i) (begin i s)).trans hw
  rw [exec_eq_settle i hr]
  rcases hend : frameExchanges i (opcode i) (outBytes s.wc i) (begin i s) with ⟨ins | e | _, u⟩ <;>
    rw [hend] at hrun hwaits
  case ok =>
    obtain ⟨hl, hacc⟩ := frameExchanges_begin_ok hend
    refine ⟨j + 1, by omega, (run_snoc hrun (step_setPhase_rel hwaits _)).trans ?_⟩
    rw [pendingResult_eq_resultOf hl hacc]
    rfl
  case fail =>
    refine ⟨j + 1, by omega, (run_snoc hrun (step_setPhase_rel hwaits _)).trans ?_⟩
    rw [widthAfter_transportFailure]
    rfl
  case hang => exact ⟨j, by omega, hrun⟩

/-- Settles O43: the steps of a frame, from its first bus event (`run_begin_eq_exec`). -/
theorem sequencerRefinesTheFrame : Obligations.SequencerRefinesTheFrame :=
  fun i _ hr hw => run_begin_eq_exec i hr hw

/-! ## An operation on the command port -/

/-- The command of an operation stands for it (30_encoding.md R61, R67). -/
theorem decodeCommand_commandOf (i : Instr) : decodeCommand (commandOf i) = .ok i := by
  cases i with
  | writeModeRegister0 v | writeModeRegister1 v =>
    have hv : v.toNat ≤ 255 := Nat.lt_succ_iff.mp v.isLt
    simpa [commandOf, decodeCommand, byteOperand] using hv
  | writeDataRegister value =>
    have hlow : (-2147483648 : Int) ≤ value.toNat := by omega
    have hhigh : (value.toNat : Int) ≤ 4294967295 := by have := value.isLt; omega
    simp [commandOf, decodeCommand, dataOperand, hlow, hhigh]
  | _ => rfl

theorem decodeCommand_commandOfWord {nbits w : Nat} {i : Instr} (h : decodeTableWord nbits w = some i) :
    decodeCommand (commandOfWord nbits w) = .ok i := by
  rw [commandOfWord, h]
  exact decodeCommand_commandOf i

section

variable {s : State} {c : Command} {rest : List (HostEvent SelectId)} {i : Instr} (hp : s.port = .issue c :: rest)
  (hc : decodeCommand c = .ok i)

include hp hc

/-- The step refuses an operation that `exec` refuses. -/
theorem step_of_issue_refused (r : Refusal) (h : exec i (s.setPort rest) = .refused r) : step s = .refused r :=
  (step_of_issue hp hc).trans (accept_of_refused h)

/-- The step takes an operation that runs from the port with its first bus event, and the steps end where `exec` does. -/
theorem step_of_issue_next (t : State) (h : exec i (s.setPort rest) = .next t) :
    step s = .next (begin i (s.setPort rest)) ∧ ((s.setPort rest).hostWaits = true →
      ∃ k, 1 ≤ k ∧ k ≤ 7 ∧ Host.Core.run Sys2Proof.core k s = .next t) := by
  obtain ⟨hr, -⟩ := exec_cases h
  have hs : step s = .next (begin i (s.setPort rest)) := (step_of_issue hp hc).trans (accept_of_ready i hr)
  refine ⟨hs, fun hw => ?_⟩
  obtain ⟨k, hk, hrun⟩ := run_begin_eq_exec i hr hw
  exact ⟨k + 1, by omega, by omega, (run_succ_of_next k hs).trans (hrun.trans h)⟩

end

/-- Settles O3: a command on the port (`step_of_issue_refused`, `step_of_issue_next`), and an instruction word as the
command it stands for. -/
theorem stepRunsTheIssuedOperation : Obligations.StepRunsTheIssuedOperation := by
  refine ⟨fun s c rest i hp hc => ⟨step_of_issue_refused hp hc, step_of_issue_next hp hc⟩, fun s nbits w i hd => ?_⟩
  have hp : (s.withFetchWord nbits w).port = .issue (commandOfWord nbits w) :: s.port := rfl
  have hc := decodeCommand_commandOfWord hd
  exact ⟨step_of_issue_refused hp hc, step_of_issue_next hp hc⟩

end Sys2Proof.Machine
end

section
/-! Every step keeps the invariant: first the shape of the bus trace, the sequencer's registers and the lines on the bus,
each with the lemma that says what keeps it; then one lemma for each event a step can be. -/

namespace Sys2Proof.Machine

section

variable {σ ε : Type}

/-! ## The bus trace -/

/-- The line's level after two runs of events is that after the second, from the first one's end. -/
theorem lineAfter_append [DecidableEq σ] (sel : σ) (es es' : List (BusEvent σ ε)) : ∀ level : Bool,
    lineAfter sel level (es ++ es') = (lineAfter sel level es).bind fun l => lineAfter sel l es' := by
  induction es with
  | nil => exact fun level => rfl
  | cons e es ih =>
    intro level
    cases e <;> simp only [List.cons_append, lineAfter, ih] <;> split <;> rfl

/-! ## The sequencer's registers -/

section

variable {s : State.Of σ ε} {o : Instr} {k n : Nat} {res : Response ε}

theorem sequencerOk_op (h : s.phase = .op o) : s.sequencerOk ↔ s.frameOf o ∧ s.acc = 0#32 := by
  rw [State.Of.sequencerOk, h]

theorem sequencerOk_pay (h : s.phase = .pay o k n) :
    s.sequencerOk ↔ s.frameOf o ∧ n = s.count ∧ k < n ∧ s.acc.toNat < 256 ^ k := by
  rw [State.Of.sequencerOk, h]

theorem sequencerOk_rel (h : s.phase = .rel o res) : s.sequencerOk ↔ s.frameOf o ∧ res.fits o = true := by
  rw [State.Of.sequencerOk, h]

/-- The exchange that comes next belongs to a frame whose registers are those of its operation. -/
theorem State.Of.Sends.frameOf {b : Byte} (h : s.Sends o b) (hs : s.sequencerOk) : s.frameOf o := by
  obtain ⟨hp, -⟩ | ⟨k, n, hp, -⟩ := h
  · exact ((sequencerOk_op hp).mp hs).1
  · exact ((sequencerOk_pay hp).mp hs).1

/-- What is pending after the last exchange is a result of the operation's kind (30_encoding.md R55). -/
theorem pendingResult_fits (o : Instr) (n : Nat) (acc : Pattern) : (pendingResult o n acc : Response ε).fits o = true := by
  unfold pendingResult
  cases hf : o.format <;> simp [Response.fits, hf]

/-- After k of the n payload exchanges, with at most k bytes in ACC, the registers agree with the phase. -/
theorem sequencerOk_exchangePhase (hf : s.frameOf o) (hacc : s.acc.toNat < 256 ^ k) :
    (s.setPhase (exchangePhase o k s.count s)).sequencerOk := by
  unfold exchangePhase
  split
  case isTrue h => exact (sequencerOk_pay rfl).mpr ⟨hf, rfl, h, hacc⟩
  case isFalse => exact (sequencerOk_rel rfl).mpr ⟨hf, pendingResult_fits o _ _⟩

/-- One payload byte more in ACC, of four at most. -/
theorem toNat_collect_acc_lt {r : Byte} (hk : k < 4) (h : s.acc.toNat < 256 ^ k) :
    (s.collect o r).acc.toNat < 256 ^ (k + 1) := by
  have hr := r.isLt
  have hpow : 256 ^ (k + 1) = 256 ^ k * 256 := Nat.pow_succ ..
  rw [State.Of.collect_acc]
  split
  · have h3 : s.acc.toNat < 256 ^ 3 := h.trans_le (Nat.pow_le_pow_right (by decide) (Nat.lt_succ_iff.mp hk))
    rw [toNat_accStep s.acc r h3]
    omega
  · omega

end

theorem exchangePhase_ne_idle (o : Instr) (k n : Nat) (s : State.Of σ ε) : exchangePhase o k n s ≠ .idle := by
  unfold exchangePhase
  split <;> nofun

/-! ## The lines on the bus -/

/-- The number of asserted lines, counted as bits or as channels. -/
theorem count_asserted (peers : List (Peer σ)) :
    (peers.map Peer.asserted).count true = peers.countP Peer.asserted := by
  rw [List.count, List.countP_map]
  exact List.countP_congr fun p _ => by simp

theorem busHeld_iff {s : State.Of σ ε} : s.busHeld = true ↔ ∃ p ∈ s.peers, p.asserted = true := List.any_eq_true

theorem busHeld_eq_false_iff {s : State.Of σ ε} : s.busHeld = false ↔ ∀ p ∈ s.peers, p.asserted = false := by
  simp [State.Of.busHeld]

theorem countP_asserted_eq_zero {s : State.Of σ ε} (h : s.busHeld = false) : s.peers.countP Peer.asserted = 0 := by
  rw [List.countP_eq_zero]
  exact fun p hp => by simp [busHeld_eq_false_iff.mp h p hp]

section

variable [DecidableEq σ]

/-- A line is free exactly if no channel on the bus has it. -/
theorem State.Of.bound_eq_false_iff (s : State.Of σ ε) {sel : σ} :
    s.bound sel = false ↔ sel ∉ s.sel :: s.peers.map Peer.sel := by
  rw [List.mem_cons, ← s.hasPeer_iff sel, State.Of.bound]
  simp

/-- A channel's level after its line, or another's, is moved. -/
theorem setLine_eq (sel : σ) (level : Bool) (peers : List (Peer σ)) :
    setLine sel level peers = peers.map fun p => ⟨p.sel, if p.sel = sel then level else p.asserted⟩ := by
  refine List.map_congr_left fun p _ => ?_
  split <;> rfl

/-- A release asserts no line. -/
theorem countP_setLine_false_le (sel : σ) (peers : List (Peer σ)) :
    (setLine sel false peers).countP Peer.asserted ≤ peers.countP Peer.asserted := by
  rw [setLine_eq, List.countP_map]
  exact List.countP_mono_left fun p _ hp => (show ¬p.sel = sel ∧ p.asserted = true by simpa using hp).2

/-- On distinct lines, none of them asserted, an assert leaves one asserted at most. -/
theorem countP_setLine_true_le {sel : σ} {peers : List (Peer σ)} (hd : (peers.map Peer.sel).Nodup)
    (hnone : peers.countP Peer.asserted = 0) : (setLine sel true peers).countP Peer.asserted ≤ 1 := by
  have hcount : (setLine sel true peers).countP Peer.asserted = (peers.map Peer.sel).count sel := by
    rw [setLine_eq, List.countP_map, List.count, List.countP_map]
    refine List.countP_congr fun p hp => ?_
    have hp' : p.asserted = false := by simpa using List.countP_eq_zero.mp hnone p hp
    simp [hp']
  rw [hcount]
  exact List.nodup_iff_count_le_one.mp hd sel

/-! ## The invariant -/

/-- Construction, with any identifier, has the invariant (70_reset_and_hazards.md R111). -/
theorem inv_construct (sel : σ) : (State.Of.construct sel : State.Of σ ε).Inv where
  trace_paired := rfl
  asserted_iff_busy := rfl
  silent_while_busy := nofun
  sequencer := trivial
  lines_distinct := List.nodup_singleton sel
  one_line := Nat.zero_le 1

namespace State.Of.Inv

variable {s t : State.Of σ ε}

theorem selAsserted_of_idle (h : s.Inv) (hp : s.phase = .idle) : s.selAsserted = false := by
  rw [h.asserted_iff_busy, hp]
  rfl

theorem selAsserted_of_busy (h : s.Inv) (hp : s.phase ≠ .idle) : s.selAsserted = true := by
  rw [h.asserted_iff_busy, Bool.not_eq_true', Bool.eq_false_iff]
  exact mt s.phase.isIdle_iff.mp hp

/-- The list of what the host does next is no part of the invariant. -/
theorem setPort (h : s.Inv) (p : List (HostEvent σ)) : (s.setPort p).Inv where
  trace_paired := h.trace_paired
  asserted_iff_busy := h.asserted_iff_busy
  silent_while_busy := h.silent_while_busy
  sequencer := h.sequencer
  lines_distinct := h.lines_distinct
  one_line := h.one_line

/-- The other channels move, on lines still distinct and with at most one asserted. -/
theorem setPeers (h : s.Inv) {peers : List (Peer σ)} (hd : (s.sel :: peers.map Peer.sel).Nodup)
    (hone : (s.selAsserted :: peers.map Peer.asserted).count true ≤ 1) : (s.setPeers peers).Inv where
  trace_paired := h.trace_paired
  asserted_iff_busy := h.asserted_iff_busy
  silent_while_busy := h.silent_while_busy
  sequencer := h.sequencer
  lines_distinct := hd
  one_line := hone

/-- An exchange within a frame: only the trace, the inputs, PH and ACC move. -/
theorem exchange (h : s.Inv) (hbusy : s.phase ≠ .idle) {b : Byte} {a : Answer ε}
    (htrace : t.trace = s.trace ++ [.xchg b a]) (hsel : t.sel = s.sel) (hline : t.selAsserted = s.selAsserted)
    (hresp : t.response = s.response) (hpeers : t.peers = s.peers) (hphase : t.phase ≠ .idle)
    (hseq : t.sequencerOk) : t.Inv where
  trace_paired := by
    rw [htrace, hsel, lineAfter_append, h.trace_paired, hline, h.selAsserted_of_busy hbusy]
    rfl
  asserted_iff_busy := by
    have hbusy' : t.phase.isIdle = false := by simpa using mt t.phase.isIdle_iff.mp hphase
    rw [hline, h.selAsserted_of_busy hbusy, hbusy']
    rfl
  silent_while_busy := fun _ => by
    rw [hresp]
    exact h.silent_while_busy (by simpa using mt s.phase.isIdle_iff.mp hbusy)
  sequencer := hseq
  lines_distinct := by
    rw [hsel, hpeers]
    exact h.lines_distinct
  one_line := by
    rw [hline, hpeers]
    exact h.one_line

/-- The first bus event of an operation, in a ready block. -/
theorem begun (h : s.Inv) (hr : s.ready) (i : Instr) : (begin i s).Inv where
  trace_paired := by
    rw [begin_trace, begin_sel, lineAfter_append, h.trace_paired, h.selAsserted_of_idle hr.1]
    simp [lineAfter]
  asserted_iff_busy := rfl
  silent_while_busy := fun _ => rfl
  sequencer := (sequencerOk_op rfl).mpr ⟨begin_frameOf i s, rfl⟩
  lines_distinct := h.lines_distinct
  one_line := by
    rw [begin_selAsserted, begin_peers, List.count_cons_self, count_asserted, countP_asserted_eq_zero hr.2]

/-- The release, with the response and W's update. -/
theorem release (h : s.Inv) (hbusy : s.phase ≠ .idle) (c : WidthCode) (res : Response ε) :
    ((s.releaseSelect.setWidthCode c).respond res).Inv where
  trace_paired := by
    have htrace : lineAfter s.sel false (s.trace ++ [.release s.sel]) = some false := by
      rw [lineAfter_append, h.trace_paired, h.selAsserted_of_busy hbusy]
      simp [lineAfter]
    exact htrace
  asserted_iff_busy := rfl
  silent_while_busy := nofun
  sequencer := trivial
  lines_distinct := h.lines_distinct
  one_line := by
    refine le_trans ?_ h.one_line
    rw [h.selAsserted_of_busy hbusy]
    simp

/-- The op-code exchange that was answered: ACC is still empty. -/
theorem op_ok {o : Instr} {r : Byte} (h : s.Inv) (hp : s.phase = .op o) :
    ((s.exchanged s.opb (.ok r)).setPhase (afterOpcode o s)).Inv := by
  obtain ⟨hf, hacc⟩ := (sequencerOk_op hp).mp h.sequencer
  have hacc' : (s.exchanged s.opb (.ok r)).acc.toNat < 256 ^ 0 := by simp [hacc]
  have hseq := sequencerOk_exchangePhase (s := s.exchanged s.opb (.ok r)) (o := o) hf hacc'
  rw [afterOpcode_eq_exchangePhase]
  exact h.exchange (by simp [hp]) rfl rfl rfl rfl rfl (exchangePhase_ne_idle _ _ _ _) hseq

/-- A payload exchange that was answered, with its in-byte collected: it was one of four at most. -/
theorem pay_ok {o : Instr} {k n : Nat} {b r : Byte} (h : s.Inv) (hp : s.phase = .pay o k n) :
    (((s.exchanged b (.ok r)).collect o r).setPhase (afterPayload o k n (s.collect o r))).Inv := by
  obtain ⟨hf, rfl, hk, hacc⟩ := (sequencerOk_pay hp).mp h.sequencer
  have hk4 : k < 4 := by
    obtain ⟨-, -, hcount⟩ := hf
    exact hk.trans_le (hcount ▸ payloadCount_le s.wc o)
  have hacc' : ((s.exchanged b (.ok r)).collect o r).acc.toNat < 256 ^ (k + 1) := toNat_collect_acc_lt hk4 hacc
  have hseq := sequencerOk_exchangePhase (s := (s.exchanged b (.ok r)).collect o r) (o := o) hf hacc'
  rw [afterPayload_eq_exchangePhase]
  exact h.exchange (by simp [hp]) rfl rfl rfl rfl rfl (exchangePhase_ne_idle _ _ _ _) hseq

/-- The block's own bus event, one case for each it can be. -/
theorem of_busStep (h : s.Inv) (hs : busStep s = .next t) : t.Inv := by
  obtain ⟨-, rfl⟩ | ⟨o, b, hp, -, rfl⟩ | ⟨o, k, n, b, r, hp, -, -, rfl⟩ | ⟨o, b, e, hsends, -, rfl⟩ |
    ⟨o, b, hsends, -, rfl⟩ | ⟨o, res, hp, rfl⟩ := busStep_cases hs
  · exact h
  · exact h.op_ok hp
  · exact h.pay_ok hp
  · have hf : s.frameOf o := State.Of.Sends.frameOf hsends h.sequencer
    exact h.exchange (State.Of.Sends.phase_ne_idle hsends) rfl rfl rfl rfl rfl nofun ⟨hf, rfl⟩
  · have hf : s.frameOf o := State.Of.Sends.frameOf hsends h.sequencer
    exact h.exchange (State.Of.Sends.phase_ne_idle hsends) rfl rfl rfl rfl rfl nofun hf
  · exact h.release (by simp [hp]) _ _

/-! ## The other channels' events -/

/-- A channel constructed on a free line. -/
theorem of_constructPeer {sel : σ} (h : s.Inv) (hs : constructPeer sel s = .next t) : t.Inv := by
  obtain ⟨hfree, rfl⟩ := constructPeer_next hs
  have hd := h.lines_distinct.concat (s.bound_eq_false_iff.mp hfree)
  refine h.setPeers ?_ ?_
  · simpa using hd
  · simpa [List.count_cons, List.count_append] using h.one_line

/-- Another channel's frame starts: it is the one asserted line then. -/
theorem of_assertPeer {sel : σ} (h : s.Inv) (hs : assertPeer sel s = .next t) : t.Inv := by
  obtain ⟨hline, hheld, rfl⟩ := assertPeer_next hs
  refine h.setPeers (by rw [setLine_sels]; exact h.lines_distinct) ?_
  have hd : (s.peers.map Peer.sel).Nodup := h.lines_distinct.of_cons
  rw [hline, List.count_cons_of_ne (by decide), count_asserted]
  exact countP_setLine_true_le hd (countP_asserted_eq_zero hheld)

/-- Another channel's frame ends. -/
theorem of_releasePeer {sel : σ} (h : s.Inv) (hs : releasePeer sel s = .next t) : t.Inv := by
  obtain rfl := releasePeer_next hs
  refine h.setPeers (by rw [setLine_sels]; exact h.lines_distinct) (le_trans ?_ h.one_line)
  rw [List.count_cons, List.count_cons, count_asserted, count_asserted]
  exact Nat.add_le_add_right (countP_setLine_false_le sel s.peers) _

end State.Of.Inv

end

end

/-- Every step keeps the invariant: the block's own, the end of a wait, or an event of the host's. -/
theorem step_keeps_inv {s t : State} (h : s.Inv) (hs : step s = .next t) : t.Inv := by
  obtain ⟨-, hb⟩ | ⟨rest, -, -, rfl⟩ | ⟨c, rest, i, -, -, hr, rfl⟩ | ⟨sel, rest, -, hc⟩ | ⟨sel, rest, -, ha⟩ |
    ⟨sel, rest, -, hr⟩ := step_cases hs
  · exact h.of_busStep hb
  · exact h.setPort rest
  · exact (h.setPort rest).begun hr i
  · exact (h.setPort rest).of_constructPeer hc
  · exact (h.setPort rest).of_assertPeer ha
  · exact (h.setPort rest).of_releasePeer hr

/-- Settles O44: the reset state is a construction. -/
theorem invariantHoldsAtReset : Obligations.InvariantHoldsAtReset :=
  inv_construct Config.selectId

/-- Settles O45: one lemma for each event of a step (`step_keeps_inv`). -/
theorem everyStepKeepsTheInvariant : Obligations.EveryStepKeepsTheInvariant :=
  fun _ _ => step_keeps_inv

end Sys2Proof.Machine
end

section
/-! What one step adds to the bus trace, where it can change W, and what another channel's event moves. -/

namespace Sys2Proof.Machine

/-! ## The bus events of a step -/

section

variable {σ ε : Type}

/-- One bus event at most, and that this block's own: an assert or a release of SEL, or an exchange (92_eei_decisions.md
D1, 10_state.md R18). -/
def State.Of.OwnEvents (s : State.Of σ ε) (events : List (BusEvent σ ε)) : Prop :=
  events = [] ∨ events = [.assert s.sel] ∨ events = [.release s.sel] ∨ ∃ b a, events = [.xchg b a]

/-- Every assert and release among a block's own events names its line. -/
theorem State.Of.OwnEvents.names_sel {s : State.Of σ ε} {events : List (BusEvent σ ε)} (h : s.OwnEvents events) (l : σ)
    (hl : BusEvent.assert l ∈ events ∨ BusEvent.release l ∈ events) : l = s.sel := by
  obtain rfl | rfl | rfl | ⟨b, a, rfl⟩ := h
  · simp at hl
  · simpa using hl
  · simpa using hl
  · simp at hl

/-- The block's own step keeps SEL and makes one bus event at most. -/
theorem busStep_ownEvents {s t : State.Of σ ε} (h : busStep s = .next t) :
    t.sel = s.sel ∧ ∃ events, t.trace = s.trace ++ events ∧ s.OwnEvents events := by
  obtain ⟨-, rfl⟩ | ⟨o, b, -, -, rfl⟩ | ⟨o, k, n, b, r, -, -, -, rfl⟩ | ⟨o, b, e, -, -, rfl⟩ |
    ⟨o, b, -, -, rfl⟩ | ⟨o, res, -, rfl⟩ := busStep_cases h
  · exact ⟨rfl, [], (List.append_nil _).symm, .inl rfl⟩
  · exact ⟨rfl, _, rfl, .inr (.inr (.inr ⟨_, _, rfl⟩))⟩
  · exact ⟨rfl, _, rfl, .inr (.inr (.inr ⟨_, _, rfl⟩))⟩
  · exact ⟨rfl, _, rfl, .inr (.inr (.inr ⟨_, _, rfl⟩))⟩
  · exact ⟨rfl, _, rfl, .inr (.inr (.inr ⟨_, _, rfl⟩))⟩
  · exact ⟨rfl, _, rfl, .inr (.inr (.inl rfl))⟩

variable [DecidableEq σ] {s t : State.Of σ ε} {sel : σ}

/-- Another channel's event moves the other channels alone: all else of the block is as before. -/
theorem peerEvent_setPeers
    (h : constructPeer sel s = .next t ∨ assertPeer sel s = .next t ∨ releasePeer sel s = .next t) :
    ∃ peers, t = s.setPeers peers := by
  obtain h | h | h := h
  · obtain ⟨-, ht⟩ := constructPeer_next h
    exact ⟨_, ht⟩
  · obtain ⟨-, -, ht⟩ := assertPeer_next h
    exact ⟨_, ht⟩
  · exact ⟨_, releasePeer_next h⟩

end

/-- A step is the block's own, the first bus event of an operation, or moves nothing but the host's list and the other
channels. -/
theorem step_cases_of_block {s t : State} (h : step s = .next t) :
    busStep s = .next t ∨ (∃ i rest, t = begin i (s.setPort rest)) ∨
      ∃ rest peers, t = (s.setPort rest).setPeers peers := by
  obtain ⟨-, hb⟩ | ⟨rest, -, -, rfl⟩ | ⟨c, rest, i, -, -, -, rfl⟩ | ⟨sel, rest, -, hc⟩ | ⟨sel, rest, -, ha⟩ |
    ⟨sel, rest, -, hr⟩ := step_cases h
  · exact .inl hb
  · exact .inr (.inr ⟨rest, s.peers, rfl⟩)
  · exact .inr (.inl ⟨i, rest, rfl⟩)
  · exact .inr (.inr ⟨rest, peerEvent_setPeers (.inl hc)⟩)
  · exact .inr (.inr ⟨rest, peerEvent_setPeers (.inr (.inl ha))⟩)
  · exact .inr (.inr ⟨rest, peerEvent_setPeers (.inr (.inr hr))⟩)

/-- Settles O46: a step adds the block's own events alone (`busStep_ownEvents`), and these name SEL. -/
theorem selectBindingIsConstant : Obligations.SelectBindingIsConstant := by
  intro s t h
  have hown : t.sel = s.sel ∧ ∃ events, t.trace = s.trace ++ events ∧ s.OwnEvents events := by
    obtain hb | ⟨i, rest, rfl⟩ | ⟨rest, peers, rfl⟩ := step_cases_of_block h
    · exact busStep_ownEvents hb
    · exact ⟨rfl, _, rfl, .inr (.inl rfl)⟩
    · exact ⟨rfl, [], (List.append_nil _).symm, .inl rfl⟩
  obtain ⟨hsel, events, htrace, hev⟩ := hown
  exact ⟨hsel, events, htrace, hev.names_sel⟩

/-! ## W over a step -/

/-- The block's own step changes W only as the release of a write_mode_register_1 that is done (10_state.md R24). -/
theorem busStep_wc_ne {σ ε : Type} {s t : State.Of σ ε} (h : busStep s = .next t) (hne : t.wc ≠ s.wc) :
    t.response = some .done ∧ t.phase = .idle ∧
      ∃ v, s.phase = .rel (.writeModeRegister1 v) .done ∧ t.wc = BitVec.ofNat 2 v.toNat := by
  obtain ⟨-, rfl⟩ | ⟨o, b, -, -, rfl⟩ | ⟨o, k, n, b, r, -, -, -, rfl⟩ | ⟨o, b, e, -, -, rfl⟩ |
    ⟨o, b, -, -, rfl⟩ | ⟨o, res, hp, rfl⟩ := busStep_cases h
  · exact absurd rfl hne
  · exact absurd rfl hne
  · exact absurd rfl hne
  · exact absurd rfl hne
  · exact absurd rfl hne
  · obtain ⟨v, rfl, rfl, hwc⟩ := widthAfter_ne hne
    exact ⟨rfl, rfl, v, hp, hwc⟩

/-- Settles O47: only the block's own step can change W (`busStep_wc_ne`). -/
theorem widthChangesOnlyByWriteModeRegister1 : Obligations.WidthChangesOnlyByWriteModeRegister1 := by
  intro s t h hne
  obtain hb | ⟨i, rest, rfl⟩ | ⟨rest, peers, rfl⟩ := step_cases_of_block h
  · exact busStep_wc_ne hb hne
  · exact absurd rfl hne
  · exact absurd rfl hne

/-! ## The other channels' events -/

section

variable {σ ε : Type} [DecidableEq σ] {s : State.Of σ ε} {sel : σ}

theorem constructPeer_of_free (hs : sel ≠ s.sel) (hp : sel ∉ s.peers.map Peer.sel) :
    constructPeer sel s = .next (s.setPeers (s.peers ++ [⟨sel, false⟩])) := by
  have hfree : s.bound sel = false := s.bound_eq_false_iff.mpr (by simpa [hs] using hp)
  rw [constructPeer, hfree]
  rfl

theorem assertPeer_of_held (hp : sel ∈ s.peers.map Peer.sel) (h : s.selAsserted = true ∨ s.busHeld = true) :
    assertPeer sel s = .refused .busHeld := by
  rw [assertPeer, s.hasPeer_iff sel |>.mpr hp, if_neg (by decide), if_pos (by simpa using h)]

theorem assertPeer_of_free (hp : sel ∈ s.peers.map Peer.sel) (hline : s.selAsserted = false)
    (hheld : s.busHeld = false) : assertPeer sel s = .next (s.setPeers (setLine sel true s.peers)) := by
  rw [assertPeer, s.hasPeer_iff sel |>.mpr hp, hline, hheld]
  rfl

theorem releasePeer_of_peer (hp : sel ∈ s.peers.map Peer.sel) :
    releasePeer sel s = .next (s.setPeers (setLine sel false s.peers)) := by
  rw [releasePeer, s.hasPeer_iff sel |>.mpr hp]
  rfl

/-- An event of a channel never constructed is refused by name (log entry 14). -/
theorem peerEvent_of_noSuchChannel (hp : sel ∉ s.peers.map Peer.sel) :
    assertPeer sel s = .refused .noSuchChannel ∧ releasePeer sel s = .refused .noSuchChannel := by
  have hno : s.hasPeer sel = false := by simpa using mt (s.hasPeer_iff sel).mp hp
  rw [assertPeer, releasePeer, hno]
  exact ⟨rfl, rfl⟩

end

section

variable {s : State} {sel : SelectId} {rest : List (HostEvent SelectId)}

theorem step_of_construct (hp : s.port = .construct sel :: rest) : step s = constructPeer sel (s.setPort rest) := by
  rw [step, advance, hp]

theorem step_of_peerAssert (hp : s.port = .peerAssert sel :: rest) : step s = assertPeer sel (s.setPort rest) := by
  rw [step, advance, hp]

theorem step_of_peerRelease (hp : s.port = .peerRelease sel :: rest) : step s = releasePeer sel (s.setPort rest) := by
  rw [step, advance, hp]

end

/-- Settles O48: one clause for each event, from the equation of its meaning. -/
theorem otherChannelsMoveOnlyTheirLines : Obligations.OtherChannelsMoveOnlyTheirLines := by
  intro s sel rest
  refine ⟨fun hp hs hfree => ?construct, fun hp hmem => ⟨fun hheld => ?held, fun ⟨hline, hnone⟩ => ?assert⟩,
    fun hp hmem => ?release, fun hp hno => ?unknown⟩
  case construct => exact (step_of_construct hp).trans (constructPeer_of_free hs hfree)
  case held =>
    exact (step_of_peerAssert hp).trans (assertPeer_of_held hmem (hheld.imp_right busHeld_iff.mpr))
  case assert =>
    rw [step_of_peerAssert hp, ← setLine_eq]
    exact assertPeer_of_free hmem hline (busHeld_eq_false_iff.mpr hnone)
  case release =>
    rw [step_of_peerRelease hp, ← setLine_eq]
    exact releasePeer_of_peer hmem
  case unknown =>
    obtain ⟨hassert, hrelease⟩ := peerEvent_of_noSuchChannel (s := s.setPort rest) hno
    obtain hp | hp := hp
    · exact (step_of_peerAssert hp).trans hassert
    · exact (step_of_peerRelease hp).trans hrelease

end Sys2Proof.Machine
end

section
/-! Which accesses the operations make, and the one frame of each on the bus: what an operation that answers a next state
adds to the bus trace, and from that the count of its asserts, exchanges and releases. -/

namespace Sys2Proof

/-! ## Registers and accesses -/

/-- One operation for each pair of 20_memory.md R35, in the order of its table; the operands do not matter to the
pair. -/
def reachingOperations : List Instr :=
  [.readModeRegister0, .writeModeRegister0 0#8, .clearModeRegister0, .readModeRegister1, .writeModeRegister1 0#8,
    .clearModeRegister1, .writeDataRegister 0#32, .readCounter, .clearCounter, .loadCounter, .readOtr, .loadOtr,
    .readStatusRegister, .clearStatusRegister]

/-- The pairs of register and access of a list of operations. -/
def accessPairs (ops : List Instr) : List (ChipRegister × Access) := ops.map fun i => (i.register, i.access)

/-- Every operation makes the access of a listed one. -/
theorem mem_accessPairs_reachingOperations (i : Instr) :
    (i.register, i.access) ∈ accessPairs reachingOperations := by
  cases i <;> simp [accessPairs, reachingOperations, Instr.register, Instr.access]

/-- Settles O15: the table's fourteen pairs are those of `reachingOperations`, and every operation makes one of them. -/
theorem reachableRegisterAccesses : Obligations.ReachableRegisterAccesses := by
  intro r a
  change _ ↔ (r, a) ∈ accessPairs reachingOperations
  constructor
  · rintro ⟨i, rfl, rfl⟩
    exact mem_accessPairs_reachingOperations i
  · intro h
    obtain ⟨i, -, hi⟩ := List.mem_map.mp h
    obtain ⟨hr, ha⟩ := Prod.mk.inj hi
    exact ⟨i, hr, ha⟩

end Sys2Proof

namespace Sys2Proof.Machine

/-! ## The frame of an operation -/

/-- A response made of in-bytes is a success (60_exceptions.md R95). -/
theorem resultOf_code (i : Instr) (n : Nat) (ins : List Byte) : (resultOf i n ins).code = 0 := by
  rw [resultOf]
  cases i.format <;> rfl

section

variable {σ ε : Type} (s : State.Of σ ε) (i : Instr) (opb : Byte) (outs : List Byte) (answers : List (Answer ε))
  (ins : List Byte)

/-- The release and the response after a frame's exchanges end the frame, whatever W becomes. -/
theorem frameEnded_respond (c : WidthCode) (r : Response ε) :
    frameEnded s (((s.inFrame i opb outs answers ins).releaseSelect.setWidthCode c).respond r) (opb :: outs) answers r :=
  ⟨rfl, rfl, rfl, rfl, rfl, rfl, rfl, rfl, rfl⟩

/-- So do the release and a failure. -/
theorem frameEnded_raiseTransportFailure (e : ε) :
    frameEnded s (raiseTransportFailure e (s.inFrame i opb outs answers ins).releaseSelect) (opb :: outs) answers
      (.transportFailure e) :=
  frameEnded_respond s i opb outs answers ins s.wc (.transportFailure e)

/-- A block in Hung after a frame's exchanges has neither released the line nor responded. -/
theorem frameHung_setPhase :
    frameHung s ((s.inFrame i opb outs answers ins).setPhase (.hung i)) i (opb :: outs) answers :=
  ⟨rfl, rfl, rfl, rfl, rfl, rfl, rfl, rfl, rfl⟩

end

/-- Settles O30: the three ends of `exec_cases`, each with the frame it leaves on the bus. -/
theorem everyOperationIsExactlyOneFrame : Obligations.EveryOperationIsExactlyOneFrame := by
  intro i s t h
  obtain ⟨hr, ⟨b0, ins, hl, hw, rfl⟩ | ⟨oks, e, hl, hw, rfl⟩ | ⟨oks, hl, hw, rfl⟩⟩ := exec_cases h
  · exact ⟨hr, .inl ⟨b0, ins, resultOf i s.width ins, hl, hw, resultOf_code i s.width ins,
      frameEnded_respond s i _ _ _ _ _ _⟩⟩
  · exact ⟨hr, .inr (.inl ⟨oks, e, hl, hw, rfl, rfl, frameEnded_raiseTransportFailure s i _ _ _ _ e⟩)⟩
  · exact ⟨hr, .inr (.inr ⟨oks, hl, hw, rfl, frameHung_setPhase s i _ _ _ _⟩)⟩

/-! ## Counting the events of a frame -/

@[simp] theorem length_okAnswers {ε : Type} (b0 : Byte) (ins : List Byte) :
    (okAnswers b0 ins : List (Answer ε)).length = ins.length + 1 := by
  simp [okAnswers]

@[simp] theorem length_cutAnswers {ε : Type} (oks : List Byte) (last : Answer ε) :
    (cutAnswers oks last).length = oks.length + 1 := by
  simp [cutAnswers]

/-- An operation that answers a next state made one frame of its bytes, ended or hung, of at least one exchange and at
most as many as it has bytes (20_memory.md R39, 30_encoding.md R56). -/
theorem exec_frame {i : Instr} {s t : State} (h : exec i s = .next t) :
    ∃ answers, 1 ≤ answers.length ∧ answers.length ≤ (encode s.wc i).length ∧
      ((∃ r, frameEnded s t (encode s.wc i) answers r) ∨ frameHung s t i (encode s.wc i) answers) := by
  obtain ⟨hlen, -⟩ := Laws.encodeLength_of i s.wc
  obtain ⟨-, ⟨b0, ins, r, hl, -, -, hend⟩ | ⟨oks, e, hl, -, -, -, hend⟩ | ⟨oks, hl, -, -, hhung⟩⟩ :=
    everyOperationIsExactlyOneFrame i s t h
  · exact ⟨_, by simp, by rw [length_okAnswers]; omega, .inl ⟨r, hend⟩⟩
  · exact ⟨_, by simp, by rw [length_cutAnswers]; omega, .inl ⟨_, hend⟩⟩
  · exact ⟨_, by simp, by rw [length_cutAnswers]; omega, .inr hhung⟩

section

variable {σ ε : Type} {bytes : List Byte} {answers : List (Answer ε)}

/-- The exchanges of a frame are nothing but exchanges. -/
theorem eq_xchg_of_mem_xchgEvents {x : BusEvent σ ε} (h : x ∈ xchgEvents bytes answers) : ∃ b a, x = .xchg b a := by
  obtain ⟨k, hk, rfl⟩ := List.mem_iff_getElem.mp h
  exact ⟨_, _, List.getElem_zipWith⟩

@[simp] theorem countP_isAssert_xchgEvents :
    (xchgEvents bytes answers : List (BusEvent σ ε)).countP BusEvent.isAssert = 0 := by
  refine List.countP_eq_zero.mpr fun x hx => ?_
  obtain ⟨b, a, rfl⟩ := eq_xchg_of_mem_xchgEvents hx
  nofun

@[simp] theorem countP_isRelease_xchgEvents :
    (xchgEvents bytes answers : List (BusEvent σ ε)).countP BusEvent.isRelease = 0 := by
  refine List.countP_eq_zero.mpr fun x hx => ?_
  obtain ⟨b, a, rfl⟩ := eq_xchg_of_mem_xchgEvents hx
  nofun

/-- One exchange for each answer met, where there are bytes for them all. -/
theorem countP_isXchg_xchgEvents (h : answers.length ≤ bytes.length) :
    (xchgEvents bytes answers : List (BusEvent σ ε)).countP BusEvent.isXchg = answers.length := by
  have hall : ∀ x ∈ (xchgEvents bytes answers : List (BusEvent σ ε)), x.isXchg = true := fun x hx => by
    obtain ⟨b, a, rfl⟩ := eq_xchg_of_mem_xchgEvents hx
    rfl
  rw [List.countP_eq_length.mpr hall, xchgEvents, List.length_zipWith, Nat.min_eq_right h]

/-- From s to t the bus trace grew by events that hold one assert and as many releases and exchanges as given. -/
def addsEvents (s t : State.Of σ ε) (releases exchanges : Nat) : Prop :=
  ∃ events, t.trace = s.trace ++ events ∧ events.countP BusEvent.isAssert = 1 ∧
    events.countP BusEvent.isRelease = releases ∧ events.countP BusEvent.isXchg = exchanges

variable {s t : State.Of σ ε}

/-- A frame that ends adds one assert and one release (20_memory.md R39, R46). -/
theorem addsEvents_of_frameEnded {r : Response ε} (h : frameEnded s t bytes answers r)
    (hl : answers.length ≤ bytes.length) : addsEvents s t 1 answers.length := by
  obtain ⟨htrace, -⟩ := h
  refine ⟨.assert s.sel :: xchgEvents bytes answers ++ [.release s.sel], by simp [htrace], ?_, ?_, ?_⟩
  · simp [List.countP_cons, BusEvent.isAssert]
  · simp [List.countP_cons, BusEvent.isRelease]
  · simp [BusEvent.isXchg, countP_isXchg_xchgEvents hl]

/-- A frame that hangs adds one assert and no release (60_exceptions.md R99). -/
theorem addsEvents_of_frameHung {i : Instr} (h : frameHung s t i bytes answers)
    (hl : answers.length ≤ bytes.length) : addsEvents s t 0 answers.length := by
  obtain ⟨htrace, -⟩ := h
  refine ⟨.assert s.sel :: xchgEvents bytes answers, by simp [htrace], ?_, ?_, ?_⟩
  · simp [List.countP_cons, BusEvent.isAssert]
  · simp [BusEvent.isRelease]
  · simp [BusEvent.isXchg, countP_isXchg_xchgEvents hl]

end

/-- Settles O36: an operation made one frame (`exec_frame`), and a frame's events are counted at each of its ends. -/
theorem selectIsPairedOncePerOperation : Obligations.SelectIsPairedOncePerOperation := by
  intro i s t h
  obtain ⟨answers, hpos, hle, hframe⟩ := exec_frame h
  have hadds : addsEvents s t (if t.phase = .hung i then 0 else 1) answers.length := by
    obtain ⟨r, hend⟩ | hhung := hframe
    · have hadds := addsEvents_of_frameEnded hend hle
      obtain ⟨-, -, hidle, -⟩ := hend
      rwa [hidle, if_neg nofun]
    · have hadds := addsEvents_of_frameHung hhung hle
      obtain ⟨-, -, hphase, -⟩ := hhung
      rwa [if_pos hphase]
  obtain ⟨events, htrace, hassert, hrelease, hxchg⟩ := hadds
  obtain ⟨hlen, -⟩ := Laws.encodeLength_of i s.wc
  exact ⟨events, htrace, hassert, hrelease, hxchg ▸ hpos, hxchg ▸ hlen ▸ hle⟩

end Sys2Proof.Machine
end

section
/-! Decoding and encoding of frames: the data bytes of an operand and their assembly undo each other, the decoder of a
payload undoes the payload an operation sends, and so the decoder of frames undoes the encoder. -/

namespace Sys2Proof

/-! ## Data bytes and assembly -/

/-- The last data byte is the low byte; the others are those of the pattern without it (30_encoding.md R62). -/
theorem dataBytes_succ (n : Nat) (value : Pattern) :
    dataBytes (n + 1) value = dataBytes n (value >>> 8) ++ [value.setWidth 8] := by
  rw [dataBytes, List.range_succ, List.map_append]
  congr 1
  · refine List.map_congr_left fun j hj => BitVec.eq_of_getLsbD_eq fun k hk => ?_
    have hpos : 8 * (n + 1 - 1 - j) + k = 8 + (8 * (n - 1 - j) + k) := by
      have := List.mem_range.mp hj
      omega
    rw [BitVec.getLsbD_extractLsb', BitVec.getLsbD_extractLsb', BitVec.getLsbD_ushiftRight, hpos]
  · rw [List.map_singleton, Nat.add_sub_cancel, Nat.sub_self, Nat.mul_zero, BitVec.setWidth_eq_extractLsb' (by decide)]

theorem assemble_concat (bytes : List Byte) (b : Byte) : assemble (bytes ++ [b]) = accStep (assemble bytes) b := by
  simp [assemble]

/-- A further byte takes the low 8 bits, the earlier ones move up (41_read.md R79). -/
theorem getLsbD_accStep (acc : Pattern) (b : Byte) (k : Nat) :
    (accStep acc b).getLsbD k = if k < 8 then b.getLsbD k else decide (k < 32) && acc.getLsbD (k - 8) := by
  by_cases hk : k < 8
  · simp [accStep, hk, show k < 32 by omega]
  · have hb : b.getLsbD k = false := BitVec.getLsbD_of_ge b k (not_lt.mp hk)
    simp [accStep, hk, hb]

/-- The bits that n bytes carry are the 8n low-order ones (20_memory.md R42). -/
theorem getLsbD_lowBytes (n : Nat) (value : Pattern) (k : Nat) :
    (lowBytes n value).getLsbD k = (decide (k < 8 * n) && value.getLsbD k) := by
  by_cases hk : k < 32
  · have hmask : (0xFFFFFFFF#32).getLsbD (32 - 8 * n + k) = decide (32 - 8 * n + k < 32) :=
      BitVec.getLsbD_allOnes
    have hiff : 32 - 8 * n + k < 32 ↔ k < 8 * n := by omega
    rw [lowBytes, BitVec.getLsbD_and, BitVec.getLsbD_ushiftRight, hmask, decide_eq_decide.mpr hiff, Bool.and_comm]
  · simp [BitVec.getLsbD_of_ge _ k (not_lt.mp hk)]

/-- The data bytes of an operand assemble to the bits they carry (42_write.md R89). -/
theorem assemble_dataBytes (n : Nat) : ∀ value : Pattern, assemble (dataBytes n value) = lowBytes n value := by
  induction n with
  | zero =>
    intro value
    exact BitVec.eq_of_getLsbD_eq fun k _ => by simp [getLsbD_lowBytes, dataBytes, assemble]
  | succ n ih =>
    intro value
    rw [dataBytes_succ, assemble_concat, ih]
    refine BitVec.eq_of_getLsbD_eq fun k hk => ?_
    rw [getLsbD_accStep, getLsbD_lowBytes, getLsbD_lowBytes]
    by_cases hlow : k < 8
    · simp [hlow, show k < 8 * (n + 1) by omega]
    · have hshift : 8 + (k - 8) = k := by omega
      have hiff : k - 8 < 8 * n ↔ k < 8 * (n + 1) := by omega
      simp [hlow, hk, hshift, hiff]

/-- At most four bytes assemble to a number of that many digits of base 256 (41_read.md R79). -/
theorem toNat_assemble_lt (bytes : List Byte) : bytes.length ≤ 4 → (assemble bytes).toNat < 256 ^ bytes.length := by
  induction bytes using List.reverseRecOn with
  | nil => exact fun _ => Nat.one_pos
  | append_singleton bytes b ih =>
    intro hl
    rw [List.length_append, List.length_singleton] at hl ⊢
    have hacc := ih (by omega)
    have h3 : (assemble bytes).toNat < 256 ^ 3 :=
      hacc.trans_le (Nat.pow_le_pow_right (by decide) (by omega))
    have hb := b.isLt
    rw [assemble_concat, toNat_accStep _ _ h3, Nat.pow_succ]
    omega

/-- Bytes assembled, at most four of them, are the data bytes of what they assemble to. -/
theorem dataBytes_assemble (bytes : List Byte) :
    bytes.length ≤ 4 → dataBytes bytes.length (assemble bytes) = bytes := by
  induction bytes using List.reverseRecOn with
  | nil => exact fun _ => rfl
  | append_singleton bytes b ih =>
    intro hl
    rw [List.length_append, List.length_singleton] at hl ⊢
    have h3 : (assemble bytes).toNat < 256 ^ 3 :=
      (toNat_assemble_lt bytes (by omega)).trans_le (Nat.pow_le_pow_right (by decide) (by omega))
    have hstep := toNat_accStep (assemble bytes) b h3
    have hb := b.isLt
    have hearlier : accStep (assemble bytes) b >>> 8 = assemble bytes :=
      BitVec.eq_of_toNat_eq (by rw [BitVec.toNat_ushiftRight, hstep, Nat.shiftRight_eq_div_pow]; omega)
    have hlast : (accStep (assemble bytes) b).setWidth 8 = b :=
      BitVec.eq_of_toNat_eq (by rw [BitVec.toNat_setWidth, hstep]; omega)
    rw [dataBytes_succ, assemble_concat, hearlier, hlast, ih (by omega)]

/-! ## The payload of a frame -/

/-- What a receiver that tracks W makes of the bytes after the op-code of operation i, whatever i's operand. -/
def decodePayload (c : WidthCode) (i : Instr) (bytes : List Byte) : Except DecodeError (FrameMeaning × List Byte) :=
  match i with
  | .writeModeRegister0 _ => takeByte .writeModeRegister0 bytes
  | .writeModeRegister1 _ => takeByte .writeModeRegister1 bytes
  | .writeDataRegister _ => takeData (widthOf c) bytes
  | _ => if i.isRead then takeFill (payloadCount c i) i bytes else .ok (meaningOf c i, bytes)

/-- The decoder knows every op-code of the table (30_encoding.md R59). -/
theorem decodePrefix_opcode (c : WidthCode) (i : Instr) (bytes : List Byte) :
    decodePrefix c (opcode i :: bytes) = decodePayload c i bytes := by
  cases i <;> rfl

/-- The decoder knows no other op-code (30_encoding.md R64). -/
theorem decodePrefix_unlisted (c : WidthCode) {b : Byte} (h : ∀ i, opcode i ≠ b) (bytes : List Byte) :
    decodePrefix c (b :: bytes) = .error (.unlistedOpcode b) := by
  rw [decodePrefix, if_neg (show b ≠ 0x10#8 from (h .clearModeRegister0).symm),
    if_neg (show b ≠ 0x01#8 from (h .clearCounter).symm),
    if_neg (show b ≠ 0x08#8 from (h .clearStatusRegister).symm),
    if_neg (show b ≠ 0x48#8 from (h .readModeRegister0).symm),
    if_neg (show b ≠ 0x50#8 from (h .readModeRegister1).symm),
    if_neg (show b ≠ 0x60#8 from (h .readCounter).symm),
    if_neg (show b ≠ 0x68#8 from (h .readOtr).symm),
    if_neg (show b ≠ 0x70#8 from (h .readStatusRegister).symm),
    if_neg (show b ≠ 0x88#8 from (h (.writeModeRegister0 0#8)).symm),
    if_neg (show b ≠ 0x90#8 from (h (.writeModeRegister1 0#8)).symm),
    if_neg (show b ≠ 0x98#8 from (h (.writeDataRegister 0#32)).symm),
    if_neg (show b ≠ 0xE0#8 from (h .loadCounter).symm),
    if_neg (show b ≠ 0xE8#8 from (h .loadOtr).symm)]

theorem takeFill_replicate (n : Nat) (i : Instr) (rest : List Byte) :
    takeFill n i (List.replicate n Config.readFill ++ rest) = .ok (.op i, rest) := by
  simp [takeFill]

/-- Only fill bytes are taken for a read's payload (20_memory.md R40). -/
theorem takeFill_eq_ok {n : Nat} {i : Instr} {bytes rest : List Byte} {m : FrameMeaning}
    (h : takeFill n i bytes = .ok (m, rest)) : m = .op i ∧ List.replicate n Config.readFill ++ rest = bytes := by
  unfold takeFill at h
  split_ifs at h with hl hfill
  cases h
  exact ⟨rfl, hfill ▸ List.take_append_drop n bytes⟩

theorem takeByte_eq_ok {i : Byte → Instr} {bytes rest : List Byte} {m : FrameMeaning}
    (h : takeByte i bytes = .ok (m, rest)) : ∃ v, m = .op (i v) ∧ v :: rest = bytes := by
  cases bytes with
  | nil => cases h
  | cons v bytes =>
    cases h
    exact ⟨v, rfl, rfl⟩

theorem takeData_dataBytes (n : Nat) (value : Pattern) (rest : List Byte) :
    takeData n (dataBytes n value ++ rest) = .ok (.op (.writeDataRegister (lowBytes n value)), rest) := by
  have htake : (dataBytes n value ++ rest).take n = dataBytes n value := List.take_left' (length_dataBytes n value)
  have hdrop : (dataBytes n value ++ rest).drop n = rest := List.drop_left' (length_dataBytes n value)
  rw [takeData, if_neg (by simp), htake, hdrop, assemble_dataBytes]

theorem takeData_eq_ok {n : Nat} (hn : n ≤ 4) {bytes rest : List Byte} {m : FrameMeaning}
    (h : takeData n bytes = .ok (m, rest)) :
    ∃ value, m = .op (.writeDataRegister value) ∧ dataBytes n value ++ rest = bytes := by
  unfold takeData at h
  split_ifs at h with hl
  cases h
  have hlen : (bytes.take n).length = n := List.length_take_of_le (not_lt.mp hl)
  have hdata : dataBytes n (assemble (bytes.take n)) = bytes.take n := by
    have hround := dataBytes_assemble (bytes.take n) (hlen.trans_le hn)
    rwa [hlen] at hround
  exact ⟨_, rfl, by rw [hdata, List.take_append_drop]⟩

/-- A payload the block sends is decoded to the operation's meaning. -/
theorem decodePayload_outBytes (c : WidthCode) (i : Instr) (rest : List Byte) :
    decodePayload c i (outBytes c i ++ rest) = .ok (meaningOf c i, rest) := by
  cases i with
  | writeDataRegister value => exact takeData_dataBytes (widthOf c) value rest
  | readModeRegister0 | readModeRegister1 | readStatusRegister => exact takeFill_replicate 1 _ rest
  | readCounter | readOtr => exact takeFill_replicate (widthOf c) _ rest
  | _ => rfl

/-- A payload that is decoded is the one the decoded operation sends, and that operation's op-code is the one before
it. -/
theorem decodePayload_eq_ok {c : WidthCode} {i : Instr} {bytes rest : List Byte} {m : FrameMeaning}
    (h : decodePayload c i bytes = .ok (m, rest)) :
    opcode m.representative = opcode i ∧ outBytes c m.representative ++ rest = bytes := by
  cases i with
  | writeModeRegister0 v | writeModeRegister1 v =>
    obtain ⟨v', rfl, hbytes⟩ := takeByte_eq_ok h
    exact ⟨rfl, hbytes⟩
  | writeDataRegister value =>
    obtain ⟨value', rfl, hbytes⟩ := takeData_eq_ok (widthOf_le c) h
    exact ⟨rfl, hbytes⟩
  | readModeRegister0 | readModeRegister1 | readStatusRegister | readCounter | readOtr =>
    obtain ⟨rfl, hbytes⟩ := takeFill_eq_ok h
    exact ⟨rfl, hbytes⟩
  | _ =>
    cases h
    exact ⟨rfl, rfl⟩

/-! ## Frames -/

/-- Settles O9: the decoder knows the op-code (`decodePrefix_opcode`) and reads the payload back
(`decodePayload_outBytes`). -/
theorem decodeInvertsEncode : Obligations.DecodeInvertsEncode := by
  intro c i rest
  rw [encode, List.cons_append, decodePrefix_opcode, decodePayload_outBytes]

/-- What is decoded from the front of a byte sequence is the frame of its meaning (30_encoding.md R64). -/
theorem encode_of_decodePrefix {c : WidthCode} {bytes rest : List Byte} {m : FrameMeaning}
    (h : decodePrefix c bytes = .ok (m, rest)) : encode c m.representative ++ rest = bytes := by
  cases bytes with
  | nil => cases h
  | cons b bytes =>
    by_cases hb : ∃ i, opcode i = b
    · obtain ⟨i, rfl⟩ := hb
      rw [decodePrefix_opcode] at h
      obtain ⟨hop, hout⟩ := decodePayload_eq_ok h
      rw [encode, hop, List.cons_append, hout]
    · rw [decodePrefix_unlisted c (not_exists.mp hb)] at h
      cases h

/-- A whole frame is one frame and nothing after it (30_encoding.md R56). -/
theorem decode_eq_ok_iff {c : WidthCode} {bytes : List Byte} {m : FrameMeaning} :
    decode c bytes = .ok m ↔ decodePrefix c bytes = .ok (m, []) := by
  unfold decode
  rcases decodePrefix c bytes with e | ⟨m', rest⟩
  · simp
  · cases rest <;> simp

/-- Settles O10: a whole frame is decoded with nothing after it (`encode_of_decodePrefix`). -/
theorem encodeInvertsDecode : Obligations.EncodeInvertsDecode := by
  intro c bytes m h
  rw [← encode_of_decodePrefix (decode_eq_ok_iff.mp h), List.append_nil]

end Sys2Proof
end

section
/-! The op-code table: what an op-code says of its operation, which bytes are op-codes, the lengths of frames, and the
first exchange of every frame. -/

namespace Sys2Proof

/-! ## Access and register in an op-code -/

/-- Bits 7:6 of every op-code are the access code of the derived layout, those of the clears included (30_encoding.md
R57). -/
theorem extractLsb'_opcode_access (i : Instr) : (opcode i).extractLsb' 6 2 = i.access.code := by
  cases i <;> simp [opcode, Instr.access, Access.code]

/-- The ten operations that are no clears have the layout's byte (30_encoding.md R57). -/
theorem opcode_eq_layoutByte {i : Instr} (h : i.access ≠ .clear) : opcode i = layoutByte i.access i.register := by
  cases i
  case clearModeRegister0 | clearModeRegister1 | clearCounter | clearStatusRegister => exact absurd rfl h
  all_goals simp [opcode, layoutByte, Instr.access, Instr.register, Access.code, ChipRegister.code]

theorem extractLsb'_layoutByte_register (a : Access) (r : ChipRegister) :
    (layoutByte a r).extractLsb' 3 3 = r.code := by
  cases a <;> cases r <;> rfl

theorem Access.code_injective : Function.Injective Access.code := by
  intro a a'
  cases a <;> cases a' <;> decide

theorem ChipRegister.code_injective : Function.Injective ChipRegister.code := by
  intro r r'
  cases r <;> cases r' <;> decide

theorem access_eq_clear_iff {i : Instr} : i.access = .clear ↔
    i = .clearModeRegister0 ∨ i = .clearModeRegister1 ∨ i = .clearCounter ∨ i = .clearStatusRegister := by
  cases i <;> simp [Instr.access]

/-- Settles O14: the ten rows (`opcode_eq_layoutByte`), and the four clears one by one. -/
theorem derivedLayoutFitsTenRows : Obligations.DerivedLayoutFitsTenRows := by
  refine ⟨rfl, fun i => ⟨opcode_eq_layoutByte, fun h => ?accessBits, fun h => ?layout⟩⟩
  case accessBits => rw [extractLsb'_opcode_access, h, Access.code]
  case layout =>
    obtain rfl | rfl | rfl | rfl := access_eq_clear_iff.mp h <;> decide

/-! ## Shared op-codes -/

theorem access_eq_of_opcode_eq {i j : Instr} (h : opcode i = opcode j) : i.access = j.access :=
  Access.code_injective (by rw [← extractLsb'_opcode_access, h, extractLsb'_opcode_access])

/-- Among the operations that are no clears, an op-code names the register. -/
theorem register_eq_of_opcode_eq {i j : Instr} (hi : i.access ≠ .clear) (h : opcode i = opcode j) :
    i.register = j.register := by
  have hj : j.access ≠ .clear := access_eq_of_opcode_eq h ▸ hi
  rw [opcode_eq_layoutByte hi, opcode_eq_layoutByte hj] at h
  exact ChipRegister.code_injective
    (by rw [← extractLsb'_layoutByte_register i.access, h, extractLsb'_layoutByte_register])

/-- The only frames that mean clear (0x10) are those of the two clears (30_encoding.md R60). -/
theorem meaningOf_eq_clear10_iff {c : WidthCode} {i : Instr} :
    meaningOf c i = .clear10 ↔ i = .clearModeRegister0 ∨ i = .clearModeRegister1 := by
  cases i <;> simp [meaningOf]

/-- A whole frame decodes to its operation's meaning. -/
theorem decode_encode (c : WidthCode) (i : Instr) : decode c (encode c i) = .ok (meaningOf c i) := by
  have h := decodeInvertsEncode c i []
  rw [List.append_nil] at h
  exact decode_eq_ok_iff.mpr h

/-- Settles O11: what a frame decodes to (`decode_encode`), and what an op-code shared by two operations says: of clears
the four rows are compared, of the others it names access and register. -/
theorem masterClearFrameIsShared : Obligations.MasterClearFrameIsShared := by
  refine ⟨fun c => rfl, fun c => rfl, fun c i => ?meaning, fun i j h => ?shared⟩
  case meaning => rw [decode_encode, Except.ok.injEq, meaningOf_eq_clear10_iff]
  case shared =>
    have haccess := access_eq_of_opcode_eq h
    by_cases hi : i.access = .clear
    · obtain rfl | rfl | rfl | rfl := access_eq_clear_iff.mp hi <;>
        obtain rfl | rfl | rfl | rfl := access_eq_clear_iff.mp (haccess ▸ hi) <;>
        simp [opcode, Instr.register, Instr.access] at h ⊢
    · exact .inr ⟨register_eq_of_opcode_eq hi h, haccess⟩

/-! ## The bytes that are op-codes -/

/-- Settles O12: the 256 bytes are tried, and a byte that is no op-code is refused (`decodePrefix_unlisted`). -/
theorem unlistedOpcodesAreRefused : Obligations.UnlistedOpcodesAreRefused :=
  ⟨by decide, fun c _ rest h => decodePrefix_unlisted c h rest⟩

/-- Settles O8: seven frames and one word, evaluated. -/
theorem writtenFramesDecode : Obligations.WrittenFramesDecode := by
  unfold Obligations.WrittenFramesDecode
  decide

/-! ## Frame lengths -/

/-- Settles O13: the length of a frame (`Laws.encodeLength_of`), and the payload counts row by row. -/
theorem frameLengthFollowsFormat : Obligations.FrameLengthFollowsFormat := by
  refine ⟨fun c i => Laws.encodeLength_of i c, fun c i h => ?none, fun c i hr ha => ?one, fun c i hr ha => ?width⟩
  case none => cases i <;> simp [Instr.access] at h <;> rfl
  case one => cases i <;> simp [Instr.access, Instr.register] at ha hr <;> rfl
  case width => cases i <;> simp [Instr.access, Instr.register] at ha hr <;> rfl

end Sys2Proof

namespace Sys2Proof.Machine

/-! ## The first exchange of a frame -/

/-- A run of at least one exchange begins with the first byte's. -/
theorem xchgEvents_cons {σ ε : Type} (b : Byte) (bytes : List Byte) {answers : List (Answer ε)}
    (h : 1 ≤ answers.length) :
    ∃ a rest, (xchgEvents (b :: bytes) answers : List (BusEvent σ ε)) = .xchg b a :: rest := by
  obtain ⟨a, as, rfl⟩ := List.exists_cons_of_length_pos h
  exact ⟨a, xchgEvents bytes as, rfl⟩

/-- Settles O7: the table is `opcode`, and a frame's exchanges (`exec_frame`) begin with the op-code's. -/
theorem everyOperationEmitsItsTableByte : Obligations.EveryOperationEmitsItsTableByte := by
  refine ⟨⟨rfl, rfl, rfl, rfl, rfl, rfl, rfl, rfl, rfl, fun _ => rfl, fun _ => rfl, fun _ => rfl, rfl, rfl⟩,
    fun i s t h => ?_⟩
  obtain ⟨answers, hpos, -, hframe⟩ := exec_frame h
  obtain ⟨a, rest, hfirst⟩ := xchgEvents_cons (σ := SelectId) (opcode i) (outBytes s.wc i) hpos
  obtain ⟨r, htrace, -⟩ | ⟨htrace, -⟩ := hframe <;> rw [encode, hfirst] at htrace
  · exact ⟨a, rest ++ [.release s.sel], by simp [htrace]⟩
  · exact ⟨a, rest, by simp [htrace]⟩

end Sys2Proof.Machine
end

section
/-! The command port accepts the well-formed commands and no others. -/

namespace Sys2Proof

/-! ## Operands -/

theorem exists_noOperand_ok_iff (i : Instr) (operand : Option Int) :
    (∃ j, noOperand i operand = .ok j) ↔ operand.isNone = true := by
  cases operand <;> simp [noOperand]

/-- A range check answers an operation exactly in the range. -/
theorem exists_ite_ok_iff {p : Prop} [Decidable p] (i : Instr) (e : CommandError) :
    (∃ j, (if p then Except.ok i else .error e) = .ok j) ↔ p := by
  split_ifs with h <;> simp [h]

theorem exists_byteOperand_ok_iff (i : Byte → Instr) (v : Int) :
    (∃ j, byteOperand i (some v) = .ok j) ↔ inByteRange v = true := by
  have hrange : inByteRange v = true ↔ 0 ≤ v ∧ v ≤ 255 := by
    simp [inByteRange]
    omega
  rw [hrange, byteOperand, exists_ite_ok_iff]

theorem exists_dataOperand_ok_iff (v : Int) :
    (∃ j, dataOperand (some v) = .ok j) ↔ inDataRange v = true := by
  have hrange : inDataRange v = true ↔ -(2 ^ 31) ≤ v ∧ v ≤ 2 ^ 32 - 1 := by
    simp [inDataRange]
    omega
  rw [hrange, dataOperand, exists_ite_ok_iff]

/-- A command is well-formed exactly if it stands for an operation (30_encoding.md R61, R67). -/
theorem wellFormed_iff_exists_decodeCommand_ok (c : Command) :
    c.wellFormed = true ↔ ∃ i, decodeCommand c = .ok i := by
  obtain ⟨op, operand⟩ := c
  cases op with
  | unlisted name => simp [Command.wellFormed, decodeCommand]
  | writeModeRegister0 | writeModeRegister1 =>
    cases operand with
    | none => simp [Command.wellFormed, decodeCommand, byteOperand]
    | some v => exact (exists_byteOperand_ok_iff _ v).symm
  | writeDataRegister =>
    cases operand with
    | none => simp [Command.wellFormed, decodeCommand, dataOperand]
    | some v => exact (exists_dataOperand_ok_iff v).symm
  | _ => exact (exists_noOperand_ok_iff _ operand).symm

end Sys2Proof

namespace Sys2Proof.Machine

/-- Settles O5: the port's checks are the well-formedness (`wellFormed_iff_exists_decodeCommand_ok`), and an operation's
command stands for it (`decodeCommand_commandOf`). -/
theorem wellFormedCommandsAreAccepted : Obligations.WellFormedCommandsAreAccepted :=
  ⟨wellFormed_iff_exists_decodeCommand_ok, fun i =>
    ⟨(wellFormed_iff_exists_decodeCommand_ok (commandOf i)).mpr ⟨i, decodeCommand_commandOf i⟩,
      decodeCommand_commandOf i⟩⟩

end Sys2Proof.Machine
end

section
/-! The assembler reads back what is written: a line's words are its name and its literal, a comment adds none, and a
literal written byte by byte in hexadecimal is the number its bytes assemble to. -/

namespace Sys2Proof.Machine

/-! ## Words -/

/-- A character that can stand in a word: no separator, and no beginning of a comment (30_encoding.md R67). -/
def isWordChar (ch : Char) : Bool := !isBlank ch && ch != ';'

theorem pieces_ne_nil (line : List Char) : pieces line ≠ [] := by
  cases line with
  | nil => nofun
  | cons ch line =>
    rw [pieces]
    split
    · nofun
    · split <;> nofun

/-- A blank ends a piece. -/
theorem pieces_append_blank (xs ys : List Char) {ch : Char} (h : isBlank ch = true) :
    pieces (xs ++ ch :: ys) = pieces xs ++ pieces ys := by
  induction xs with
  | nil => simp [pieces, h]
  | cons x xs ih =>
    obtain ⟨w, ws, hw⟩ := List.exists_cons_of_ne_nil (pieces_ne_nil xs)
    rw [List.cons_append, pieces, pieces, ih, hw]
    cases isBlank x <;> rfl

/-- A text without blanks is one piece. -/
theorem pieces_of_isWordChar {w : List Char} (h : w.all isWordChar = true) : pieces w = [w] := by
  induction w with
  | nil => rfl
  | cons ch w ih =>
    obtain ⟨hch, hw⟩ : isWordChar ch = true ∧ w.all isWordChar = true := by simpa using h
    have hblank : isBlank ch = false := by
      cases hb : isBlank ch
      · rfl
      · simp [isWordChar, hb] at hch
    rw [pieces, ih hw, hblank]
    rfl

/-- A text with no ';' in it is no shorter before its comment. -/
theorem takeWhile_of_not_mem {text : List Char} (h : ';' ∉ text) (rest : List Char) :
    (text ++ rest).takeWhile (· != ';') = text ++ rest.takeWhile (· != ';') := by
  refine List.takeWhile_append_of_pos fun ch hch => ?_
  rw [bne_iff_ne]
  rintro rfl
  exact h hch

theorem lineWords_of_not_mem {line : List Char} (h : ';' ∉ line) :
    lineWords line = (pieces line).filter (· != []) := by
  have htake := takeWhile_of_not_mem h []
  rw [List.append_nil, List.takeWhile_nil, List.append_nil] at htake
  rw [lineWords, htake]

/-- A comment adds no words (30_encoding.md R67). -/
theorem lineWords_comment {line : List Char} (h : ';' ∉ line) (comment : List Char) :
    lineWords (line ++ ' ' :: ';' :: comment) = lineWords line := by
  have htake : (line ++ ' ' :: ';' :: comment).takeWhile (· != ';') = line ++ [' '] := by
    rw [takeWhile_of_not_mem h]
    rfl
  rw [lineWords_of_not_mem h, lineWords, htake, pieces_append_blank line [] rfl, List.filter_append]
  simp [pieces]

theorem parseLine_comment {line : List Char} (h : ';' ∉ line) (comment : List Char) :
    parseLine (line ++ ' ' :: ';' :: comment) = parseLine line := by
  rw [parseLine, parseLine, lineWords_comment h]

theorem not_mem_of_isWordChar {w : List Char} (h : w.all isWordChar = true) : ';' ∉ w :=
  fun hmem => absurd (List.all_eq_true.mp h _ hmem) (by decide)

/-- A name alone on its line. -/
theorem lineWords_word {w : List Char} (h : w.all isWordChar = true) (hne : w ≠ []) : lineWords w = [w] := by
  rw [lineWords_of_not_mem (not_mem_of_isWordChar h), pieces_of_isWordChar h]
  simp [hne]

/-- A name and an operand. -/
theorem lineWords_two_words {w v : List Char} (hw : w.all isWordChar = true) (hv : v.all isWordChar = true)
    (hwne : w ≠ []) (hvne : v ≠ []) : lineWords (w ++ ' ' :: v) = [w, v] := by
  have hnot : ';' ∉ w ++ ' ' :: v := by
    simp [not_mem_of_isWordChar hw, not_mem_of_isWordChar hv]
  rw [lineWords_of_not_mem hnot, pieces_append_blank w v rfl, pieces_of_isWordChar hw, pieces_of_isWordChar hv]
  simp [hwne, hvne]

/-! ## Hexadecimal literals -/

theorem hexDigit_hexChar : ∀ n < 16, hexDigit (hexChar n) = some n := by decide

theorem isWordChar_hexChar : ∀ n < 16, isWordChar (hexChar n) = true := by decide

theorem isWordChar_of_mem_hexByte {b : Byte} {ch : Char} (h : ch ∈ hexByte b) : isWordChar ch = true := by
  have hb := b.isLt
  obtain rfl | rfl : ch = hexChar (b.toNat / 16) ∨ ch = hexChar (b.toNat % 16) := by simpa [hexByte] using h
  · exact isWordChar_hexChar _ (by omega)
  · exact isWordChar_hexChar _ (by omega)

/-- A byte's two digits weigh 256 to what comes before them. -/
theorem digits_hexByte (n : Nat) (b : Byte) (cs : List Char) :
    digits 16 hexDigit n (hexByte b ++ cs) = digits 16 hexDigit (n * 256 + b.toNat) cs := by
  have hb := b.isLt
  have hvalue : (n * 16 + b.toNat / 16) * 16 + b.toNat % 16 = n * 256 + b.toNat := by omega
  simp only [hexByte, List.cons_append, List.nil_append, digits, hexDigit_hexChar (b.toNat / 16) (by omega),
    hexDigit_hexChar (b.toNat % 16) (by omega), hvalue]

/-- Digits written byte by byte are read as the bytes' assembly, while it fits its 32 bits. -/
theorem digits_flatMap_hexByte (bytes : List Byte) : ∀ (k : Nat) (acc : Pattern), acc.toNat < 256 ^ k →
    k + bytes.length ≤ 4 →
    digits 16 hexDigit acc.toNat (bytes.flatMap hexByte) = some (bytes.foldl accStep acc).toNat := by
  induction bytes with
  | nil => exact fun _ _ _ _ => rfl
  | cons b bytes ih =>
    intro k acc hacc hk
    rw [List.length_cons] at hk
    have hb := b.isLt
    have hstep : (accStep acc b).toNat = acc.toNat * 256 + b.toNat :=
      toNat_accStep acc b (hacc.trans_le (Nat.pow_le_pow_right (by decide) (by omega)))
    have hnext : (accStep acc b).toNat < 256 ^ (k + 1) := by
      rw [hstep, Nat.pow_succ]
      omega
    rw [List.flatMap_cons, digits_hexByte, ← hstep, ih (k + 1) _ hnext (by omega), List.foldl_cons]

/-- The literal of an operand, its bytes in hexadecimal, most significant first. -/
def hexLiteral (bytes : List Byte) : List Char := '0' :: 'x' :: bytes.flatMap hexByte

theorem isWordChar_hexLiteral (bytes : List Byte) : (hexLiteral bytes).all isWordChar = true := by
  refine List.all_eq_true.mpr fun ch hch => ?_
  obtain rfl | rfl | hmem : ch = '0' ∨ ch = 'x' ∨ ch ∈ bytes.flatMap hexByte := by
    simpa only [hexLiteral, List.mem_cons] using hch
  · rfl
  · rfl
  · obtain ⟨b, -, hb⟩ := List.mem_flatMap.mp hmem
    exact isWordChar_of_mem_hexByte hb

theorem intLiteral_hex (d : Char) (ds : List Char) :
    intLiteral ('0' :: 'x' :: d :: ds) = (digits 16 hexDigit 0 (d :: ds)).map Int.ofNat := rfl

/-- A literal of one to four bytes is read as their assembly. -/
theorem intLiteral_hexLiteral {bytes : List Byte} (hne : bytes ≠ []) (hl : bytes.length ≤ 4) :
    intLiteral (hexLiteral bytes) = some (Int.ofNat (assemble bytes).toNat) := by
  have hdigits : digits 16 hexDigit 0 (bytes.flatMap hexByte) = some (assemble bytes).toNat :=
    digits_flatMap_hexByte bytes 0 0#32 (by decide) (by omega)
  cases bytes with
  | nil => exact absurd rfl hne
  | cons b bytes =>
    rw [List.flatMap_cons, hexByte, List.cons_append] at hdigits
    rw [hexLiteral, List.flatMap_cons, hexByte, List.cons_append, intLiteral_hex, hdigits, Option.map_some]

/-! ## Lines -/

theorem opNameOf_nameText (i : Instr) : opNameOf (nameText i) = (commandOf i).op := by
  cases i <;> rfl

theorem isWordChar_nameText (i : Instr) : (nameText i).all isWordChar = true := by
  cases i <;> rfl

theorem nameText_ne_nil (i : Instr) : nameText i ≠ [] := by
  cases i <;> nofun

theorem toNat_assemble_singleton (b : Byte) : (assemble [b]).toNat = b.toNat :=
  (toNat_accStep 0#32 b (by decide)).trans (by simp)

/-- Four data bytes carry the whole operand (30_encoding.md R62). -/
theorem assemble_dataBytes_four (value : Pattern) : assemble (dataBytes 4 value) = value := by
  rw [assemble_dataBytes]
  exact BitVec.eq_of_getLsbD_eq fun k hk => by rw [getLsbD_lowBytes, decide_eq_true hk, Bool.true_and]

/-- A line is a name, or a name and the literal of its operand's bytes; the command has that operand. -/
theorem lineText_cases (i : Instr) :
    (lineText i = nameText i ∧ commandOf i = ⟨opNameOf (nameText i), none⟩) ∨
    ∃ bytes : List Byte, bytes ≠ [] ∧ bytes.length ≤ 4 ∧ lineText i = nameText i ++ ' ' :: hexLiteral bytes ∧
      commandOf i = ⟨opNameOf (nameText i), some (Int.ofNat (assemble bytes).toNat)⟩ := by
  rw [opNameOf_nameText]
  cases i with
  | writeModeRegister0 v | writeModeRegister1 v =>
    refine .inr ⟨[v], nofun, by simp, ?_, by rw [toNat_assemble_singleton]; rfl⟩
    rw [lineText, hexLiteral, List.flatMap_singleton, List.append_assoc]
    rfl
  | writeDataRegister value =>
    refine .inr ⟨dataBytes 4 value, nofun, by simp, ?_, by rw [assemble_dataBytes_four]; rfl⟩
    rw [lineText, hexLiteral, List.append_assoc]
    rfl
  | _ => exact .inl ⟨rfl, rfl⟩

/-- A line written for an operation holds no comment. -/
theorem not_mem_lineText (i : Instr) : ';' ∉ lineText i := by
  have hname := not_mem_of_isWordChar (isWordChar_nameText i)
  obtain ⟨htext, -⟩ | ⟨bytes, -, -, htext, -⟩ := lineText_cases i <;> rw [htext]
  · exact hname
  · simp [hname, not_mem_of_isWordChar (isWordChar_hexLiteral bytes)]

/-- A line written for an operation is read back (30_encoding.md R67). -/
theorem parseLine_lineText (i : Instr) : parseLine (lineText i) = .ok (some (commandOf i)) := by
  obtain ⟨htext, hcommand⟩ | ⟨bytes, hne, hl, htext, hcommand⟩ := lineText_cases i <;> rw [htext, hcommand, parseLine]
  · rw [lineWords_word (isWordChar_nameText i) (nameText_ne_nil i)]
  · rw [lineWords_two_words (isWordChar_nameText i) (isWordChar_hexLiteral bytes) (nameText_ne_nil i) nofun]
    simp only [intLiteral_hexLiteral hne hl]

/-- Settles O6: the line is read back (`parseLine_lineText`), and a comment changes nothing (`parseLine_comment`). -/
theorem assemblerReadsBackWrittenLines : Obligations.AssemblerReadsBackWrittenLines := fun i comment =>
  ⟨parseLine_lineText i, (parseLine_comment (not_mem_lineText i) comment).trans (parseLine_lineText i)⟩

end Sys2Proof.Machine
end

section
/-! In-bytes that no read collects do not matter: with other bytes in place of them the same exchanges are answered, and
the operation's end differs in the records of those exchanges alone. -/

namespace Sys2Proof.Machine

section

variable {σ ε : Type} {s : State.Of σ ε}

/-! ## Listed answers -/

/-- The state with other answers listed. -/
def State.Of.setAnswers (answers : List (Answer ε)) (s : State.Of σ ε) : State.Of σ ε := { s with answers := answers }

@[simp] theorem State.Of.setAnswers_answers (answers : List (Answer ε)) : (s.setAnswers answers).answers = answers := rfl

@[simp] theorem State.Of.setAnswers_wc (answers : List (Answer ε)) : (s.setAnswers answers).wc = s.wc := rfl

/-- The state, as far as its answers go, when n listed ones are met and these are left. -/
def State.Of.afterListed (n : Nat) (rest : List (Answer ε)) (s : State.Of σ ε) : State.Of σ ε :=
  { s with answers := rest, exchanges := s.exchanges + n }

@[simp] theorem State.Of.afterListed_answers (n : Nat) (rest : List (Answer ε)) :
    (s.afterListed n rest).answers = rest := rfl

/-- A run of answers is a run and, after it, another. -/
theorem State.Of.willAnswer_append {u : State.Of σ ε} {p q : List (Answer ε)}
    (hu : ∀ k, u.answerAt k = s.answerAt (p.length + k)) :
    s.willAnswer (p ++ q) ↔ s.willAnswer p ∧ u.willAnswer q := by
  rw [State.Of.willAnswer, List.length_append, List.range_add, List.map_append, List.map_map,
    List.append_eq_append_iff_of_size_eq_left (by simp), State.Of.willAnswer, State.Of.willAnswer,
    show s.answerAt ∘ (p.length + ·) = u.answerAt from funext fun k => (hu k).symm]

/-- What is listed in front comes. -/
theorem State.Of.willAnswer_of_listed {p rest : List (Answer ε)} (h : s.answers = p ++ rest) : s.willAnswer p := by
  refine List.ext_getElem (by simp) fun k hk hp => ?_
  simp [State.Of.answerAt, h, List.getElem?_append_left hp, List.getElem?_eq_getElem hp]

/-- Of two runs that come, the shorter is the front of the longer. -/
theorem State.Of.prefix_of_willAnswer {p q : List (Answer ε)} (hp : s.willAnswer p) (hq : s.willAnswer q)
    (hl : p.length ≤ q.length) : p <+: q := by
  have hrange : List.range p.length <+: List.range q.length := by
    rw [← Nat.min_eq_left hl, ← List.take_range]
    exact List.take_prefix _ _
  have hmap := hrange.map s.answerAt
  rw [State.Of.willAnswer] at hp hq
  rwa [hp, hq] at hmap

/-- Listed answers that are all ok come before any failure or silence. -/
theorem State.Of.length_le_of_willAnswer_cut {ins oks : List Byte} {last : Answer ε} {rest : List (Answer ε)}
    (h : s.answers = ins.map .ok ++ rest) (hw : s.willAnswer (cutAnswers oks last)) (hlast : ∀ b, last ≠ .ok b) :
    ins.length ≤ oks.length := by
  by_contra hlt
  have hcut : cutAnswers oks last <+: ins.map .ok :=
    State.Of.prefix_of_willAnswer hw (State.Of.willAnswer_of_listed h) (by simp; omega)
  obtain ⟨b, -, hb⟩ := List.mem_map.mp (hcut.subset (by simp [cutAnswers] : last ∈ cutAnswers oks last))
  exact hlast b hb.symm

/-- A run that comes begins with the listed bytes, and with other bytes listed in their place it comes with those. -/
theorem State.Of.willAnswer_changed {ins ins' oks : List Byte} {last rest : List (Answer ε)}
    (h : s.answers = ins.map .ok ++ rest) (hlen : ins.length = ins'.length) (hl : ins.length ≤ oks.length)
    (hw : s.willAnswer (oks.map .ok ++ last)) :
    ∃ more, oks = ins ++ more ∧
      (s.setAnswers (ins'.map .ok ++ rest)).willAnswer ((ins' ++ more).map .ok ++ last) := by
  have hfront : (ins.map .ok : List (Answer ε)) <+: oks.map .ok :=
    List.prefix_of_prefix_length_le
      (State.Of.prefix_of_willAnswer (State.Of.willAnswer_of_listed h) hw (by simp; omega))
      (List.prefix_append _ _) (by simpa using hl)
  obtain ⟨more, rfl⟩ : ins <+: oks := (List.prefix_map_iff_of_injective fun _ _ => Answer.ok.inj).mp hfront
  refine ⟨more, rfl, ?_⟩
  rw [List.map_append, List.append_assoc] at hw ⊢
  have hdrop := State.Of.answerAt_of_drop (s := s) (t := s.afterListed ins.length rest) (by simp [h]) rfl
  have hdrop' := State.Of.answerAt_of_drop (s := s.setAnswers (ins'.map .ok ++ rest))
    (t := s.afterListed ins.length rest) (by simp [hlen]) rfl
  obtain ⟨-, hrest⟩ := (State.Of.willAnswer_append (by simpa using hdrop)).mp hw
  exact (State.Of.willAnswer_append (by simpa [← hlen] using hdrop')).mpr ⟨State.Of.willAnswer_of_listed rfl, hrest⟩

/-! ## States that differ in records -/

theorem xchgEvents_append (p q : List (Answer ε)) : ∀ bytes : List Byte,
    (xchgEvents bytes (p ++ q) : List (BusEvent σ ε)) = xchgEvents bytes p ++ xchgEvents (bytes.drop p.length) q := by
  induction p with
  | nil => intro bytes; simp [xchgEvents]
  | cons a p ih =>
    intro bytes
    cases bytes with
    | nil => simp [xchgEvents]
    | cons b bytes => exact congrArg (.xchg b a :: ·) (ih bytes)

/-- After a frame from s that sends these bytes, t and t' differ in the records of its first exchanges alone, which t
made with the answers p and t' with p'. -/
def differInRecords (s : State.Of σ ε) (bytes : List Byte) (p p' : List (Answer ε)) (t t' : State.Of σ ε) : Prop :=
  ∃ tail, t.trace = s.trace ++ [.assert s.sel] ++ xchgEvents bytes p ++ tail ∧
    t' = { t with trace := s.trace ++ [.assert s.sel] ++ xchgEvents bytes p' ++ tail }

section

variable {bytes : List Byte} {p p' : List (Answer ε)} {t t' : State.Of σ ε} (h : differInRecords s bytes p p' t t')

include h

theorem differInRecords.wc_eq : t'.wc = t.wc := by
  obtain ⟨tail, -, rfl⟩ := h
  rfl

theorem differInRecords.setPhase (ph : Phase ε) : differInRecords s bytes p p' (t.setPhase ph) (t'.setPhase ph) := by
  obtain ⟨tail, ht, rfl⟩ := h
  exact ⟨tail, ht, rfl⟩

theorem differInRecords.setWidthCode (c : WidthCode) :
    differInRecords s bytes p p' (t.setWidthCode c) (t'.setWidthCode c) := by
  obtain ⟨tail, ht, rfl⟩ := h
  exact ⟨tail, ht, rfl⟩

theorem differInRecords.respond (r : Response ε) : differInRecords s bytes p p' (t.respond r) (t'.respond r) := by
  obtain ⟨tail, ht, rfl⟩ := h
  exact ⟨tail, ht, rfl⟩

theorem differInRecords.releaseSelect (hsel : t.sel = s.sel) :
    differInRecords s bytes p p' t.releaseSelect t'.releaseSelect := by
  obtain ⟨tail, ht, rfl⟩ := h
  refine ⟨tail ++ [.release s.sel], by simp [ht, hsel], ?_⟩
  simp [State.Of.releaseSelect, hsel]

end

/-- The exchanges of a frame with other bytes listed: ACC is the same where no changed byte goes there. -/
theorem differInRecords_inFrame {p p' q rest : List (Answer ε)} {i : Instr} {ins ins' : List Byte} (opb : Byte)
    (outs : List Byte) (hs : s.answers = p ++ rest) (hlen : p.length = p'.length) (hread : i.isRead = true → ins = ins') :
    differInRecords s (opb :: outs) p p' (s.inFrame i opb outs (p ++ q) ins)
      ((s.setAnswers (p' ++ rest)).inFrame i opb outs (p' ++ q) ins') := by
  refine ⟨xchgEvents ((opb :: outs).drop p.length) q, by simp [xchgEvents_append], ?_⟩
  have hlength : (p' ++ q).length = (p ++ q).length := by simp [hlen]
  have hold : (p ++ rest).drop (p ++ q).length = rest.drop q.length := by simp
  have hnew : (p' ++ rest).drop (p' ++ q).length = rest.drop q.length := by simp
  have hdrop : (p' ++ rest).drop (p ++ q).length = s.answers.drop (p ++ q).length := by
    rw [hs, hold, ← hlength, hnew]
  have hacc : (if i.isRead then ins'.foldl accStep 0#32 else 0#32)
      = if i.isRead then ins.foldl accStep 0#32 else 0#32 := by
    cases hr : i.isRead with
    | true => rw [hread hr]
    | false => rfl
  simp only [State.Of.inFrame, State.Of.afterXchgs, State.Of.collectAll, openFrame, State.Of.loadFrame,
    State.Of.assertSelect, State.Of.setAnswers, hdrop, hlength, hacc, xchgEvents_append, hlen, List.append_assoc]

/-- The answers of a frame that begin with these bytes. -/
theorem okAnswers_append (b : Byte) (ins more : List Byte) :
    (okAnswers b (ins ++ more) : List (Answer ε)) = okAnswers b ins ++ more.map .ok := by
  rw [okAnswers, List.map_append]
  rfl

theorem cutAnswers_append (b : Byte) (ins more : List Byte) (last : Answer ε) :
    cutAnswers (b :: ins ++ more) last = okAnswers b ins ++ cutAnswers more last := by
  rw [cutAnswers, List.map_append, List.append_assoc]
  rfl

end

/-- The result of an operation that is no read does not rest on in-bytes. -/
theorem resultOf_of_not_isRead {i : Instr} (h : i.isRead = false) (n : Nat) (ins ins' : List Byte) :
    resultOf i n ins = resultOf i n ins' := by
  unfold resultOf
  cases hf : i.format
  case opIn1 | opInW => simp [Instr.isRead, hf] at h
  all_goals rfl

/-- The end on success, with the same result. -/
theorem differInRecords.finish {s t t' : State} {bytes : List Byte} {p p' : List (Answer TransportError)}
    (h : differInRecords s bytes p p' t t') {i : Instr} {n : Nat} {ins ins' : List Byte}
    (hresult : resultOf i n ins = resultOf i n ins') :
    differInRecords s bytes p p' (finishOf i n ins t) (finishOf i n ins' t') := by
  rw [finishOf, finishOf, hresult, h.wc_eq]
  exact (h.setWidthCode _).respond _

/-- With other bytes answered to the op-code's exchange and to payload exchanges that no read has, an operation ends
alike but for the records of those exchanges. -/
theorem exec_changed {i : Instr} {s t : State} {b b' : Byte} {ins ins' : List Byte} {rest : List (Answer TransportError)}
    (hread : i.isRead = true → ins = ins') (hlen : ins.length = ins'.length) (hle : ins.length ≤ payloadCount s.wc i)
    (hs : s.answers = okAnswers b ins ++ rest) (h : exec i s = .next t) :
    ∃ t', exec i (s.setAnswers (okAnswers b' ins' ++ rest)) = .next t' ∧
      differInRecords s (encode s.wc i) (okAnswers b ins) (okAnswers b' ins') t t' := by
  have hcons : (b :: ins).length = (b' :: ins').length := congrArg (· + 1) hlen
  have hanswers : (okAnswers b ins : List (Answer TransportError)).length
      = (okAnswers b' ins' : List (Answer TransportError)).length := by
    rw [length_okAnswers, length_okAnswers, hlen]
  have hframe := fun (q : List (Answer TransportError)) (more : List Byte) =>
    differInRecords_inFrame (q := q) (ins := ins ++ more) (ins' := ins' ++ more) (opcode i) (outBytes s.wc i) hs hanswers
      fun hr => by rw [hread hr]
  obtain ⟨hr, ⟨b0, ins0, hl, hw, rfl⟩ | ⟨oks, e, hl, hw, rfl⟩ | ⟨oks, hl, hw, rfl⟩⟩ := exec_cases h
  · obtain ⟨more, hmore, hw'⟩ := State.Of.willAnswer_changed (oks := b0 :: ins0) (last := []) hs hcons
      (by simp; omega) (by rwa [List.append_nil])
    rw [List.cons_append] at hmore
    obtain ⟨rfl, rfl⟩ := List.cons.inj hmore
    rw [List.append_nil] at hw'
    have hresult : resultOf i s.width (ins ++ more) = resultOf i s.width (ins' ++ more) := by
      cases hread' : i.isRead with
      | true => rw [hread hread']
      | false => exact resultOf_of_not_isRead hread' _ _ _
    refine ⟨_, exec_of_ok (s := s.setAnswers (okAnswers b' ins' ++ rest)) (b0 := b') (ins := ins' ++ more) i hr
      (by simpa [hlen] using hl) hw', ?_⟩
    rw [okAnswers_append, okAnswers_append]
    exact ((hframe (more.map .ok) more).releaseSelect rfl).finish hresult
  · have hfront := State.Of.length_le_of_willAnswer_cut (ins := b :: ins) hs hw nofun
    obtain ⟨more, rfl, hw'⟩ := State.Of.willAnswer_changed hs hcons hfront hw
    refine ⟨_, exec_of_fail (s := s.setAnswers (okAnswers b' ins' ++ rest)) (oks := b' :: ins' ++ more) i hr
      (by simpa [hlen] using hl) hw', ?_⟩
    rw [cutAnswers_append, cutAnswers_append]
    exact ((hframe (cutAnswers more (.fail e)) more).releaseSelect rfl).respond (.transportFailure e)
  · have hfront := State.Of.length_le_of_willAnswer_cut (ins := b :: ins) hs hw nofun
    obtain ⟨more, rfl, hw'⟩ := State.Of.willAnswer_changed hs hcons hfront hw
    refine ⟨_, exec_of_hang (s := s.setAnswers (okAnswers b' ins' ++ rest)) (oks := b' :: ins' ++ more) i hr
      (by simpa [hlen] using hl) hw', ?_⟩
    rw [cutAnswers_append, cutAnswers_append]
    exact (hframe (cutAnswers more .noAnswer) more).setPhase (.hung i)

theorem xchgEvents_encode_singleton {σ ε : Type} (c : WidthCode) (i : Instr) (b : Byte) :
    (xchgEvents (encode c i) (okAnswers b []) : List (BusEvent σ ε)) = [.xchg (opcode i) (.ok b)] := by
  simp [encode, okAnswers, xchgEvents]

/-- Settles O40: of the op-code's in-byte for every operation, and of a payload's for one that is no read
(`exec_changed`). -/
theorem discardedInBytesDoNotMatter : Obligations.DiscardedInBytesDoNotMatter := by
  constructor
  · intro i s t b b' rest hs h
    obtain ⟨t', ht', tail, htrace, rfl⟩ :=
      exec_changed (ins := []) (ins' := []) (b' := b') (fun _ => rfl) rfl (Nat.zero_le _) hs h
    rw [xchgEvents_encode_singleton, List.append_assoc s.trace] at htrace ht'
    exact ⟨tail, htrace, ht'⟩
  · intro i s t b b' ins ins' rest hread hlen hle hs h
    obtain ⟨t', ht', tail, htrace, rfl⟩ := exec_changed (b' := b') (by simp [hread]) hlen hle hs h
    exact ⟨tail, htrace, ht'⟩

end Sys2Proof.Machine
end

section
/-! What an operation performs in a ready block: its own frame, whichever way the exchanges end; and the frame of the
operations without a payload, the op-code byte alone. -/

namespace Sys2Proof.Machine

/-- The frame of an operation without a payload is its op-code byte (30_encoding.md R55). -/
theorem encode_of_format_op {i : Instr} (hf : i.format = .op) (c : WidthCode) : encode c i = [opcode i] := by
  have hnone : (outBytes c i).length = 0 := by rw [length_outBytes, payloadCount, hf, Format.payload]
  rw [encode, List.length_eq_zero_iff.mp hnone]

section

variable {i : Instr} {s : State} {wc : WidthCode} (hr : s.ready)

include hr

/-- In a ready block an operation performs the frame of its own bytes, its result made of the in-bytes, with W as it is
after that result (20_memory.md R39, 60_exceptions.md R97, R99). -/
theorem performs_encode (hwc : ∀ ins, widthAfter i (resultOf i s.width ins) s.wc = wc) :
    performs i s (encode s.wc i) (resultOf i s.width) wc := by
  obtain ⟨hlen, -⟩ := Laws.encodeLength_of i s.wc
  refine ⟨fun b0 ins hl hw => ?answered, fun oks e hl hw => ?failed, fun oks hl hw => ?silent⟩
  case answered =>
    exact ⟨_, exec_of_ok i hr (by omega) hw, frameEnded_respond s i _ _ _ _ _ _, hwc ins⟩
  case failed =>
    exact ⟨_, exec_of_fail i hr (by omega) hw, frameEnded_raiseTransportFailure s i _ _ _ _ e, rfl⟩
  case silent =>
    exact ⟨_, exec_of_hang i hr (by omega) hw, frameHung_setPhase s i _ _ _ _, rfl⟩

/-- An operation without a payload performs the frame of its op-code byte, responds done and keeps W. -/
theorem performs_opcode (hf : i.format = .op) : performs i s [opcode i] (fun _ => .done) s.wc := by
  have hresult : resultOf i s.width = fun _ => .done := by
    funext ins
    rw [resultOf, hf]
  have hkeeps : ∀ v, i ≠ .writeModeRegister1 v := by
    rintro v rfl
    cases hf
  rw [← encode_of_format_op hf s.wc, ← hresult]
  exact performs_encode hr fun ins => widthAfter_of_ne hkeeps _ _

end

/-- Settles O22: a clear has no payload, so it performs the frame of its op-code byte (`performs_opcode`). -/
theorem clearsRunOneOpcodeFrame : Obligations.ClearsRunOneOpcodeFrame := fun _ hr =>
  ⟨performs_opcode hr rfl, performs_opcode hr rfl, performs_opcode hr rfl, performs_opcode hr rfl⟩

end Sys2Proof.Machine
end

section
/-! The read datapath: assembly as a number of base 256, sign extension of an n-byte field, and the two together, which
give every n-byte integer from exactly one sequence of bytes. -/

namespace Sys2Proof

/-! ## Assembly -/

/-- At most four bytes assemble to the number they are the digits of, the last of them the least significant one
(41_read.md R79). -/
theorem toNat_assemble_eq_ofDigits (bytes : List Byte) :
    bytes.length ≤ 4 → (assemble bytes).toNat = Nat.ofDigits 256 (bytes.reverse.map BitVec.toNat) := by
  induction bytes using List.reverseRecOn with
  | nil => exact fun _ => rfl
  | append_singleton bytes b ih =>
    intro hl
    rw [List.length_append, List.length_singleton] at hl
    have h3 : (assemble bytes).toNat < 256 ^ 3 :=
      (toNat_assemble_lt bytes (by omega)).trans_le (Nat.pow_le_pow_right (by decide) (by omega))
    rw [assemble_concat, toNat_accStep _ _ h3, ih (by omega), List.reverse_concat, List.map_cons, Nat.ofDigits_cons]
    omega

/-- The digits of a sequence of bytes, each with its weight. -/
theorem ofDigits_reverse_eq_sum (bytes : List Byte) :
    Nat.ofDigits 256 (bytes.reverse.map BitVec.toNat)
      = ∑ k : Fin bytes.length, (bytes.get k).toNat * 2 ^ (8 * (bytes.length - 1 - k.val)) := by
  induction bytes with
  | nil => rfl
  | cons b bytes ih =>
    have hlater : ∀ k : Fin bytes.length, bytes.length - (k.val + 1) = bytes.length - 1 - k.val := fun k => by omega
    rw [List.map_reverse, List.map_cons, Nat.ofDigits_reverse_cons, ← List.map_reverse, ih, List.length_map,
      Nat.add_comm]
    refine Eq.trans ?_ (Fin.sum_univ_succ _).symm
    simp [hlater, Nat.pow_mul, Nat.mul_comm]

/-- Settles O17: assembly reads the digits (`toNat_assemble_eq_ofDigits`), and each digit has its weight
(`ofDigits_reverse_eq_sum`). -/
theorem assemblyIsMostSignificantFirst : Obligations.AssemblyIsMostSignificantFirst := fun ins hl =>
  (toNat_assemble_eq_ofDigits ins hl).trans (ofDigits_reverse_eq_sum ins)

/-! ## Fields of 8n bits -/

theorem toNat_assemble_lt_two_pow {n : Nat} {bytes : List Byte} (hn : n ≤ 4) (hl : bytes.length = n) :
    (assemble bytes).toNat < 2 ^ (8 * n) := by
  have hlt := toNat_assemble_lt bytes (hl.trans_le hn)
  rwa [hl, show 256 = 2 ^ 8 from rfl, ← Nat.pow_mul] at hlt

/-- A field of m bits holds all of a pattern below 2^m. -/
theorem toNat_setWidth_of_lt {m : Nat} {raw : Pattern} (hraw : raw.toNat < 2 ^ m) :
    (raw.setWidth m).toNat = raw.toNat := by
  rw [BitVec.toNat_setWidth, Nat.mod_eq_of_lt hraw]

/-- The field of 8n bits is all that n bytes carry (20_memory.md R42). -/
theorem setWidth_lowBytes (n : Nat) (value : Pattern) :
    (lowBytes n value).setWidth (8 * n) = value.setWidth (8 * n) :=
  BitVec.eq_of_getLsbD_eq fun k hk => by simp [getLsbD_lowBytes, hk]

/-- Every field of 8n bits is the assembly of exactly one sequence of n bytes (41_read.md R84, law 3). -/
theorem existsUnique_assemble_setWidth {n : Nat} (hn : n ≤ 4) (x : BitVec (8 * n)) :
    ∃! bytes : List Byte, bytes.length = n ∧ (assemble bytes).setWidth (8 * n) = x := by
  refine ⟨dataBytes n (x.setWidth 32), ⟨length_dataBytes n _, ?_⟩, ?_⟩
  · rw [assemble_dataBytes, setWidth_lowBytes, BitVec.setWidth_setWidth_of_le x (by omega), BitVec.setWidth_eq]
  · rintro bytes ⟨rfl, rfl⟩
    have hfield : ((assemble bytes).setWidth (8 * bytes.length)).setWidth 32 = assemble bytes :=
      BitVec.eq_of_toNat_eq <| by
        rw [BitVec.toNat_setWidth_of_le (by omega), toNat_setWidth_of_lt (toNat_assemble_lt_two_pow hn rfl)]
    rw [hfield, dataBytes_assemble bytes hn]

end Sys2Proof

namespace Sys2Proof.Machine

/-! ## Sign extension -/

section

variable {n : Nat} {raw : Pattern}

/-- The sign bit of a pattern is the top bit of its field of 8n bits (41_read.md R80). -/
theorem signBit_eq_msb (hpos : 1 ≤ n) : signBit raw n = (raw.setWidth (8 * n)).msb := by
  rw [signBit, BitVec.msb_setWidth, decide_eq_true (by omega), Bool.true_and]

/-- MASK(n) has the bits from 8n up (41_read.md R81). -/
theorem getLsbD_mask {i : Nat} (hi : i < 32) : (mask n).getLsbD i = decide (8 * n ≤ i) := by
  have hones : (0xFFFFFFFF#32).getLsbD (i - 8 * n) = decide (i - 8 * n < 32) := BitVec.getLsbD_allOnes
  rw [mask, BitVec.getLsbD_shiftLeft, hones, decide_eq_true hi, decide_eq_true (by omega : i - 8 * n < 32)]
  simp [← decide_not]

/-- Below bit 8n the result is raw, and from there on it is the sign bit (41_read.md R81; R84, law 2). -/
theorem getLsbD_signExt (hraw : raw.toNat < 2 ^ (8 * n)) {i : Nat} (hi : i < 32) :
    (signExt raw n).getLsbD i = if i < 8 * n then raw.getLsbD i else signBit raw n := by
  have hor : (signExt raw n).getLsbD i = (raw.getLsbD i || (signBit raw n && decide (8 * n ≤ i))) := by
    cases hsign : signBit raw n <;> simp [-BitVec.getLsbD_eq_getElem, signExt, hsign, getLsbD_mask hi]
  rw [hor]
  by_cases hlow : i < 8 * n
  · rw [if_pos hlow, decide_eq_false (not_le.mpr hlow), Bool.and_false, Bool.or_false]
  · have hhigh : raw.getLsbD i = false :=
      Nat.testBit_lt_two_pow (hraw.trans_le (Nat.pow_le_pow_right (by decide) (not_lt.mp hlow)))
    rw [if_neg hlow, hhigh, decide_eq_true (not_lt.mp hlow), Bool.and_true, Bool.false_or]

/-- The low 8n bits of the result are raw (41_read.md R84, law 1). -/
theorem toNat_signExt_mod (hle : n ≤ 4) (hraw : raw.toNat < 2 ^ (8 * n)) :
    (signExt raw n).toNat % 2 ^ (8 * n) = raw.toNat := by
  have hfield : (signExt raw n).setWidth (8 * n) = raw.setWidth (8 * n) :=
    BitVec.eq_of_getLsbD_eq fun i hi => by
      rw [BitVec.getLsbD_setWidth, BitVec.getLsbD_setWidth, getLsbD_signExt hraw (by omega), if_pos hi]
  rw [← BitVec.toNat_setWidth, hfield, toNat_setWidth_of_lt hraw]

/-- Sign extension by the mask is that of the field of 8n bits (41_read.md R81). -/
theorem signExt_eq_signExtend (hpos : 1 ≤ n) (hraw : raw.toNat < 2 ^ (8 * n)) :
    signExt raw n = (raw.setWidth (8 * n)).signExtend 32 :=
  BitVec.eq_of_getLsbD_eq fun i hi => by
    rw [getLsbD_signExt hraw hi, signBit_eq_msb hpos, BitVec.getLsbD_signExtend, decide_eq_true hi, Bool.true_and,
      BitVec.getLsbD_setWidth]
    by_cases hlow : i < 8 * n <;> simp [hlow]

/-- As an integer the result is the field of 8n bits in two's complement (41_read.md R81). -/
theorem toInt_signExt (hpos : 1 ≤ n) (hle : n ≤ 4) (hraw : raw.toNat < 2 ^ (8 * n)) :
    (signExt raw n).toInt = (raw.setWidth (8 * n)).toInt := by
  rw [signExt_eq_signExtend hpos hraw, BitVec.toInt_signExtend_of_le (by omega)]

end

/-- Settles O18: the sign bit, the result and its integer are those of the field of 8n bits (`signBit_eq_msb`,
`signExt_eq_signExtend`, `toInt_signExt`). -/
theorem signExtensionIsTwosComplement : Obligations.SignExtensionIsTwosComplement := by
  refine ⟨rfl, rfl, rfl, rfl, fun n raw hpos hle hraw => ⟨?_, rfl, ?_, signExt_eq_signExtend hpos hraw⟩⟩
  · rw [signBit_eq_msb hpos, BitVec.msb_eq_decide, decide_eq_true_iff, toNat_setWidth_of_lt hraw]
  · rw [toInt_signExt hpos hle hraw, BitVec.toInt_eq_msb_cond, ← signBit_eq_msb hpos, toNat_setWidth_of_lt hraw]
    cases signBit raw n <;> simp

/-- Settles O19: the first three laws are those of one sign extension, the bijection that of assembly
(`existsUnique_assemble_setWidth`) and of two's complement. -/
theorem counterResultLaws : Obligations.CounterResultLaws := by
  intro n hpos hle
  have htoInt : ∀ {ins : List Byte}, ins.length = n →
      (signExt (assemble ins) n).toInt = ((assemble ins).setWidth (8 * n)).toInt :=
    fun hl => toInt_signExt hpos hle (toNat_assemble_lt_two_pow hle hl)
  constructor
  · intro ins hl
    have hraw := toNat_assemble_lt_two_pow hle hl
    exact ⟨toNat_signExt_mod hle hraw,
      fun i hlow hi => (getLsbD_signExt hraw hi).trans (if_neg (not_lt.mpr hlow)),
      htoInt hl ▸ BitVec.le_toInt _, htoInt hl ▸ Int.le_sub_one_of_lt BitVec.toInt_lt⟩
  · intro z hmin hmax
    have hz : (BitVec.ofInt (8 * n) z).toInt = z :=
      BitVec.toInt_ofInt_eq_self (by omega) hmin (Int.lt_of_le_sub_one hmax)
    obtain ⟨ins, ⟨hl, hins⟩, hunique⟩ := existsUnique_assemble_setWidth hle (BitVec.ofInt (8 * n) z)
    refine ⟨ins, ⟨hl, by rw [htoInt hl, hins, hz]⟩, fun ins' ⟨hl', hins'⟩ => hunique ins' ⟨hl', ?_⟩⟩
    rw [← BitVec.toInt_inj, ← htoInt hl', hins', hz]

/-- Settles O21: sign extension keeps the two's-complement value. -/
theorem widerHostsReceiveTheSameInteger : Obligations.WiderHostsReceiveTheSameInteger := fun m p hm => by
  rw [hostCount, BitVec.toInt_signExtend_of_le hm]

/-- The result of a counter-width read of n bytes, as the field of the bytes' number (41_read.md R79 to R81). -/
theorem countResult_eq_signExtend {ε : Type} {n : Nat} {ins : List Byte} (hpos : 1 ≤ n) (hle : n ≤ 4)
    (hl : ins.length = n) :
    (countResult n ins : Response ε)
      = .count ((BitVec.ofNat (8 * n) (Nat.ofDigits 256 (ins.reverse.map BitVec.toNat))).signExtend 32) := by
  rw [countResult, signExt_eq_signExtend hpos (toNat_assemble_lt_two_pow hle hl),
    ← toNat_assemble_eq_ofDigits ins (hl.trans_le hle), BitVec.ofNat_toNat]

/-- The data bytes of a value, read back, are the value modulo 2^(8n), sign-extended (42_write.md R91). -/
theorem countResult_dataBytes {ε : Type} {n : Nat} (hpos : 1 ≤ n) (hle : n ≤ 4) (value : Pattern) :
    (countResult n (dataBytes n value) : Response ε)
      = .count ((BitVec.ofNat (8 * n) (value.toNat % 2 ^ (8 * n))).signExtend 32) := by
  have hraw := toNat_assemble_lt_two_pow hle (length_dataBytes n value)
  rw [countResult, signExt_eq_signExtend hpos hraw, assemble_dataBytes, setWidth_lowBytes,
    ← BitVec.toNat_setWidth, BitVec.ofNat_toNat, BitVec.setWidth_eq]

end Sys2Proof.Machine
end

section
/-! What the reads perform, each the frame of its own bytes; and a write, a load and a read in a row. -/

namespace Sys2Proof.Machine

/-! ## The reads -/

/-- A read performs the frame of its own bytes, its result made of the in-bytes, and keeps W (41_read.md R75). -/
theorem performs_read {i : Instr} {s : State} (hr : s.ready) (hread : i.isRead = true) :
    performs i s (encode s.wc i) (resultOf i s.width) s.wc := by
  have hkeeps : ∀ v, i ≠ .writeModeRegister1 v := by
    rintro v rfl
    cases hread
  exact performs_encode hr fun ins => widthAfter_of_ne hkeeps _ _

/-- Settles O24: each is a read (`performs_read`), its result the in-byte. -/
theorem oneByteReadsReturnTheRawByte : Obligations.OneByteReadsReturnTheRawByte := fun _ hr =>
  ⟨performs_read hr rfl, performs_read hr rfl, performs_read hr rfl⟩

/-- Of the result, only what it makes of as many in-bytes as the frame has payload bytes matters. -/
theorem performs.congr_result {i : Instr} {s : State} {bytes : List Byte}
    {result result' : List Byte → Response TransportError} {wc : WidthCode} (h : performs i s bytes result wc)
    (heq : ∀ ins, ins.length + 1 = bytes.length → result ins = result' ins) : performs i s bytes result' wc := by
  obtain ⟨hanswered, hcut⟩ := h
  exact ⟨fun b0 ins hl hw => heq ins hl ▸ hanswered b0 ins hl hw, hcut⟩

/-- A counter-width read performs the frame of its own bytes, its result the sign-extended field of the in-bytes. -/
theorem performs_countRead {i : Instr} {s : State} (hr : s.ready) (hf : i.format = .opInW) :
    performs i s (encode s.wc i)
      (fun ins => .count ((BitVec.ofNat (8 * s.width) (Nat.ofDigits 256 (ins.reverse.map BitVec.toNat))).signExtend 32))
      s.wc := by
  refine (performs_read hr (by simp [Instr.isRead, hf])).congr_result fun ins hl => ?_
  have hins : ins.length = widthOf s.wc := by
    simpa [encode, payloadCount, hf, Format.payload] using hl
  rw [resultOf, hf]
  exact countResult_eq_signExtend (widthOf_pos s.wc) (widthOf_le s.wc) hins

/-- Settles O25: both are counter-width reads (`performs_countRead`). -/
theorem counterReadsReturnTheSignedField : Obligations.CounterReadsReturnTheSignedField := fun _ hr =>
  ⟨performs_countRead hr rfl, performs_countRead hr rfl⟩

/-! ## A write, a load and a read in a row -/

/-- The front of a run that comes. -/
theorem State.Of.willAnswer_left {σ ε : Type} {s : State.Of σ ε} {p q : List (Answer ε)}
    (h : s.willAnswer (p ++ q)) : s.willAnswer p :=
  ((State.Of.willAnswer_append (u := s.afterListed p.length (s.answers.drop p.length))
    (State.Of.answerAt_of_drop rfl rfl)).mp h).1

/-- After a frame that ended, the answers to come are those after the frame's. -/
theorem frameEnded.willAnswer_append {σ ε : Type} {s t : State.Of σ ε} {bytes : List Byte} {p q : List (Answer ε)}
    {r : Response ε} (h : frameEnded s t bytes p r) : s.willAnswer (p ++ q) ↔ s.willAnswer p ∧ t.willAnswer q := by
  obtain ⟨-, -, -, -, -, -, -, hanswers, hexchanges⟩ := h
  exact State.Of.willAnswer_append (State.Of.answerAt_of_drop hanswers hexchanges)

/-- An operation that runs and meets answers that are all ok ends in its frame with its result; the answers after its
own come next. -/
theorem exec_answered {i : Instr} {s t : State} {b0 : Byte} {ins : List Byte} {rest : List (Answer TransportError)}
    (h : exec i s = .next t) (hl : ins.length = payloadCount s.wc i) (hw : s.willAnswer (okAnswers b0 ins ++ rest)) :
    t.response = some (resultOf i s.width ins) ∧ t.wc = widthAfter i (resultOf i s.width ins) s.wc ∧
      t.willAnswer rest := by
  obtain ⟨hr, -⟩ := exec_cases h
  rw [exec_of_ok i hr hl (State.Of.willAnswer_left hw)] at h
  cases h
  exact ⟨rfl, rfl, ((frameEnded_respond s i _ _ _ ins _ _).willAnswer_append.mp hw).2⟩

/-- Settles O29: each of the three operations meets its own answers (`exec_answered`), and the read's in-bytes are the
data bytes of the value (`countResult_dataBytes`). -/
theorem writtenDataReadsBack : Obligations.WrittenDataReadsBack := by
  intro s s₁ s₂ s₃ value b₀ b₁ b₂ ins₀ hw hl hwrite hload hread
  rw [List.append_assoc] at hw
  obtain ⟨hdone₁, hwc₁, hw₁⟩ := exec_answered hwrite hl hw
  obtain ⟨hdone₂, hwc₂, hw₂⟩ := exec_answered (b0 := b₁) (ins := []) hload rfl hw₁
  have hwidth : s₂.wc = s.wc := hwc₂.trans hwc₁
  have hlen : (dataBytes s.width value).length = payloadCount s₂.wc .readCounter := by
    rw [length_dataBytes, hwidth]
    rfl
  obtain ⟨hcount, hwc₃, -⟩ := exec_answered (rest := []) hread hlen (by rwa [List.append_nil])
  refine ⟨hdone₁, hdone₂, ?_, hwc₃.trans hwidth⟩
  rw [hcount, show s₂.width = s.width from congrArg widthOf hwidth]
  exact congrArg some (countResult_dataBytes (widthOf_pos s.wc) (widthOf_le s.wc) value)

end Sys2Proof.Machine
end

section
/-! The writes: the data bytes of an operand as digits of base 256 and as its residue modulo 2^(8n), and what each write
performs, the frame of its own bytes. -/

namespace Sys2Proof

/-! ## Data bytes and numbers -/

/-- Eight bits from bit 8k up are the digit of base 256 that weighs 256^k. -/
theorem extractLsb'_eq_digit (value : Pattern) (k : Nat) :
    value.extractLsb' (8 * k) 8 = BitVec.ofNat 8 (value.toNat / 256 ^ k) := by
  rw [BitVec.extractLsb', Nat.shiftRight_eq_div_pow, Nat.pow_mul]

/-- The data bytes of a value are its digits of base 256, the one of most weight first (30_encoding.md R62). -/
theorem dataBytes_eq_digits (n : Nat) (value : Pattern) :
    dataBytes n value = (List.range n).map fun j => BitVec.ofNat 8 (value.toNat / 256 ^ (n - 1 - j)) :=
  List.map_congr_left fun j _ => extractLsb'_eq_digit value (n - 1 - j)

section

variable {n : Nat} (hn : n ≤ 4)

include hn

/-- Reassembled, the data bytes of a value are the value modulo 2^(8n) (42_write.md R89). -/
theorem toNat_assemble_dataBytes (value : Pattern) :
    (assemble (dataBytes n value)).toNat = value.toNat % 2 ^ (8 * n) := by
  rw [← toNat_setWidth_of_lt (toNat_assemble_lt_two_pow hn (length_dataBytes n value)), assemble_dataBytes,
    setWidth_lowBytes, BitVec.toNat_setWidth]

/-- The data bytes of what data bytes assemble to are those bytes again: the dropped bits do not matter. -/
theorem dataBytes_assemble_dataBytes (value : Pattern) :
    dataBytes n (assemble (dataBytes n value)) = dataBytes n value := by
  have hlen := length_dataBytes n value
  have hback := dataBytes_assemble (dataBytes n value) (hlen.trans_le hn)
  rwa [hlen] at hback

/-- Two values have the same data bytes exactly if they agree modulo 2^(8n) (42_write.md R89). -/
theorem dataBytes_eq_iff (value value' : Pattern) :
    dataBytes n value = dataBytes n value' ↔ value.toNat % 2 ^ (8 * n) = value'.toNat % 2 ^ (8 * n) := by
  rw [← toNat_assemble_dataBytes hn, ← toNat_assemble_dataBytes hn]
  refine ⟨fun hbytes => by rw [hbytes], fun hnum => ?_⟩
  rw [← dataBytes_assemble_dataBytes hn value, BitVec.eq_of_toNat_eq hnum, dataBytes_assemble_dataBytes hn]

end

/-- Settles O20: the bytes are the digits (`dataBytes_eq_digits`), reassembled the residue (`toNat_assemble_dataBytes`),
and nothing but the residue decides them (`dataBytes_eq_iff`). -/
theorem dataBytesTruncateToLowBytes : Obligations.DataBytesTruncateToLowBytes := fun n hn value =>
  ⟨dataBytes_eq_digits n value, toNat_assemble_dataBytes hn value, dataBytes_eq_iff hn value⟩

end Sys2Proof

namespace Sys2Proof.Machine

/-! ## The writes -/

/-- An answered write responds done, whatever the in-bytes are (42_write.md R86). -/
theorem resultOf_of_write {i : Instr} (h : i.access = .write) (n : Nat) : resultOf i n = fun _ => .done := by
  cases i
  case writeModeRegister0 | writeModeRegister1 | writeDataRegister => rfl
  all_goals cases h

/-- A write performs the frame of its own bytes and responds done, with W as it is after that response. -/
theorem performs_write {i : Instr} {s : State} {wc : WidthCode} (hr : s.ready) (hwrite : i.access = .write)
    (hwc : widthAfter i (.done : Response TransportError) s.wc = wc) :
    performs i s (encode s.wc i) (fun _ => .done) wc := by
  have hresult := resultOf_of_write hwrite s.width
  rw [← hresult]
  exact performs_encode hr fun ins => by rwa [hresult]

/-- Settles O26: a write of the op-code and v (`performs_write`), and not write_mode_register_1, so W is kept
(`widthAfter_of_ne`). -/
theorem writeModeRegister0SendsItsByte : Obligations.WriteModeRegister0SendsItsByte := fun _ _ hr =>
  performs_write hr rfl (widthAfter_of_ne (by nofun) _ _)

/-- Settles O27: W after the response done is the width field of v (`widthAfter_writeModeRegister1_done`), which selects
4 - v[1:0] (`toNat_widthField`). -/
theorem writeModeRegister1SetsTheWidthOnSuccess : Obligations.WriteModeRegister1SetsTheWidthOnSuccess := by
  intro s v hr
  constructor
  · exact performs_write hr rfl (widthAfter_writeModeRegister1_done v s.wc)
  · exact congrArg (4 - ·) (toNat_widthField v)

/-- Settles O28: its payload is the data bytes of the value at W, the digits of the value (`dataBytes_eq_digits`). -/
theorem writeDataRegisterSendsLowBytes : Obligations.WriteDataRegisterSendsLowBytes := by
  intro s value hr
  rw [← dataBytes_eq_digits]
  exact performs_write hr rfl (widthAfter_of_ne (by nofun) _ _)

end Sys2Proof.Machine
end

section
/-! What each load performs: the frame of its op-code byte alone (43_load.md R94). -/

namespace Sys2Proof.Machine

/-- Settles O23: a load has no payload, so at every W it performs the frame of its op-code byte, 0xE0 or 0xE8
(`performs_opcode`). -/
theorem loadsRunOneOpcodeFrame : Obligations.LoadsRunOneOpcodeFrame := by
  intro s hr
  constructor
  · exact performs_opcode (i := .loadCounter) hr rfl
  · exact performs_opcode (i := .loadOtr) hr rfl

end Sys2Proof.Machine
end

section
/-! What an operation does when it cannot complete: where the block runs it at all, what a failed and a silent exchange
leave behind, and that the two 0x10 clears are one frame under two names. -/

namespace Sys2Proof.Machine

/-! ## Where an operation runs -/

/-- In a ready block every operation runs. -/
theorem exec_next_of_ready {s : State} (i : Instr) (hr : s.ready) : ∃ t, exec i s = .next t := by
  rw [exec_eq_operate, operate, s.refusal_eq_none_iff.mpr hr]
  exact ⟨_, rfl⟩

theorem exec_next_iff_ready {i : Instr} {s : State} : (∃ t, exec i s = .next t) ↔ s.ready := by
  refine ⟨fun ⟨t, ht⟩ => ?_, exec_next_of_ready i⟩
  obtain ⟨hr, -⟩ := exec_cases ht
  exact hr

/-- Every other block refuses every operation (60_exceptions.md R98, R100). -/
theorem exec_refused_iff_not_ready {i : Instr} {s : State} : (∃ r, exec i s = .refused r) ↔ ¬s.ready := by
  simp only [exec_refused_iff]
  rw [← s.refusal_eq_none_iff]
  exact Option.ne_none_iff_exists'.symm

/-- The block has no fault to raise for an operation (60_exceptions.md R106). -/
theorem exec_ne_fault (i : Instr) (s : State) (f : Fault) : exec i s ≠ .fault f := by
  rw [exec_eq_operate, operate]
  cases s.refusal <;> nofun

/-- Settles O35: an operation stops only at the block's own refusal, there exactly if the block is not ready. -/
theorem operationsRunExactlyWhenReady : Obligations.OperationsRunExactlyWhenReady :=
  fun i s => ⟨exec_next_iff_ready.symm, exec_refused_iff_not_ready.symm, exec_ne_fault i s⟩

/-! ## A failed exchange -/

/-- Settles O31: the failed end of an operation (`exec_of_fail`), with the frame it leaves on the bus. -/
theorem failureEndsTheFrameAtOnce : Obligations.FailureEndsTheFrameAtOnce :=
  fun i s _ e hr hl hw => ⟨_, exec_of_fail i hr hl hw, frameEnded_raiseTransportFailure s i _ _ _ _ e, rfl⟩

/-- An operation responds a failure only because an exchange of its frame failed, which moves neither W nor the other
channels: a completed one responds a result, and a hung one nothing (60_exceptions.md R95, R97, R99). -/
theorem ready_of_transportFailure {i : Instr} {s t : State} {e : TransportError} (h : exec i s = .next t)
    (hf : t.response = some (.transportFailure e)) : t.ready ∧ t.wc = s.wc := by
  obtain ⟨⟨-, hbus⟩, ⟨b0, ins, -, -, rfl⟩ | ⟨oks, e', -, -, rfl⟩ | ⟨oks, -, -, rfl⟩⟩ := exec_cases h
  · have hcode := resultOf_code i s.width ins
    rw [Option.some.inj hf] at hcode
    cases hcode
  · exact ⟨⟨rfl, hbus⟩, rfl⟩
  · cases hf

/-- Settles O33: a failure leaves the block ready (`ready_of_transportFailure`), and a ready block runs every operation
(`exec_next_of_ready`). -/
theorem failureLeavesTheBlockReady : Obligations.FailureLeavesTheBlockReady := by
  intro i s t e h hf
  obtain ⟨hready, hwc⟩ := ready_of_transportFailure h hf
  exact ⟨hready, hwc, fun j => exec_next_of_ready j hready⟩

/-! ## An exchange that never returns -/

/-- In Hung nothing but an event of another channel's answers a next state: a wait and an operation both need Idle. -/
theorem step_next_of_hung {s t : State} {o : Instr} (hp : s.phase = .hung o) (h : step s = .next t) :
    ∃ rest peers, t = (s.setPort rest).setPeers peers := by
  obtain ⟨-, hb⟩ | ⟨rest, -, hidle, -⟩ | ⟨c, rest, i, -, -, ⟨hidle, -⟩, -⟩ | ⟨sel, rest, -, hc⟩ |
    ⟨sel, rest, -, ha⟩ | ⟨sel, rest, -, hr⟩ := step_cases h
  · rw [busStep_of_hung hp] at hb
    cases hb
  · cases hp.symm.trans hidle
  · cases hp.symm.trans hidle
  · exact ⟨rest, peerEvent_setPeers (.inl hc)⟩
  · exact ⟨rest, peerEvent_setPeers (.inr (.inl ha))⟩
  · exact ⟨rest, peerEvent_setPeers (.inr (.inr hr))⟩

/-- Settles O32: the hung end of an operation (`exec_of_hang`), and the two ways a step can go in Hung (`step_of_hung`,
`step_next_of_hung`). -/
theorem hangStopsTheBlock : Obligations.HangStopsTheBlock := by
  refine ⟨fun i s oks hr hl hw => ?hangs, fun s o hp => ⟨fun hw => step_of_hung hw hp, fun t ht => ?stays⟩⟩
  case hangs =>
    exact ⟨_, exec_of_hang i hr hl hw, frameHung_setPhase s i _ _ _ _, rfl, fun hwaits => step_of_hung hwaits rfl⟩
  case stays =>
    obtain ⟨rest, peers, rfl⟩ := step_next_of_hung hp ht
    rfl

/-! ## The two 0x10 clears -/

/-- Settles O39: the same answers end both clears alike. Their frames have the same bytes and both keep W, and PH, where
alone the name stands, is Idle after a response; so only in Hung do the two states differ. -/
theorem masterClearsAreIndistinguishable : Obligations.MasterClearsAreIndistinguishable := by
  intro s t h
  obtain ⟨hr, ⟨b0, ins, hl, hw, rfl⟩ | ⟨oks, e, hl, hw, rfl⟩ | ⟨oks, hl, hw, rfl⟩⟩ := exec_cases h
  · exact ⟨_, exec_of_ok .clearModeRegister1 hr hl hw, rfl, rfl, rfl, rfl, fun _ => rfl⟩
  · exact ⟨_, exec_of_fail .clearModeRegister1 hr hl hw, rfl, rfl, rfl, rfl, fun _ => rfl⟩
  · exact ⟨_, exec_of_hang .clearModeRegister1 hr hl hw, rfl, rfl, rfl, rfl, nofun⟩

end Sys2Proof.Machine
end

section
/-! The breaches of the host's contract at the command port and on the bus, each refused by name (60_exceptions.md
R100). -/

namespace Sys2Proof

/-! ## Operands out of range -/

theorem byteOperand_of_out_of_range (i : Byte → Instr) {v : Int} (h : v < 0 ∨ 255 < v) :
    byteOperand i (some v) = .error .operandOutOfRange := by
  rw [byteOperand, if_neg (by omega)]

theorem dataOperand_of_out_of_range {v : Int} (h : v < -(2 ^ 31) ∨ 2 ^ 32 - 1 < v) :
    dataOperand (some v) = .error .operandOutOfRange := by
  rw [dataOperand, if_neg (by omega)]

end Sys2Proof

namespace Sys2Proof.Machine

/-! ## The reasons to refuse -/

section

variable {σ ε : Type} {s : State.Of σ ε}

/-- R100 (c): an operation is in progress. -/
theorem State.Of.refusal_of_busy (h : s.phase ≠ .idle) : s.refusal = some .busy := by
  have hidle : s.phase.isIdle = false := by simpa using mt s.phase.isIdle_iff.mp h
  rw [State.Of.refusal, hidle]
  rfl

/-- R100 (d): another channel holds the bus. -/
theorem State.Of.refusal_of_held (h : s.phase = .idle) (hheld : s.busHeld = true) :
    s.refusal = some .busHeld := by
  rw [State.Of.refusal, h, hheld]
  rfl

/-- R100 (e): the line is this block's own, or another channel's. -/
theorem constructPeer_of_bound [DecidableEq σ] {sel : σ} (h : sel = s.sel ∨ sel ∈ s.peers.map Peer.sel) :
    constructPeer sel s = .refused .selectBound := by
  have hbound : s.bound sel = true := by
    rw [State.Of.bound, Bool.or_eq_true, beq_iff_eq, s.hasPeer_iff]
    exact h
  rw [constructPeer, if_pos hbound]

end

/-! ## The step -/

/-- A command that stands for no operation is refused with the decoder's reason. -/
theorem step_of_issue_error {s : State} {c : Command} {rest : List (HostEvent SelectId)} {e : CommandError}
    (hp : s.port = .issue c :: rest) (hc : decodeCommand c = .error e) : step s = .refused (.badCommand e) := by
  rw [step, advance, hp]
  simp only [issue, hc]

/-- A block's reason to refuse turns away every operation, run whole or issued on the port. -/
theorem exec_and_step_refused {s : State} {r : Refusal} (h : s.refusal = some r) (i : Instr) :
    exec i s = .refused r ∧
      ∀ c rest, s.port = .issue c :: rest → decodeCommand c = .ok i → step s = .refused r :=
  ⟨exec_refused_iff.mpr h, fun _ _ hp hc => step_of_issue_refused hp hc r (exec_refused_iff.mpr h)⟩

/-- Settles O4: (a) and (b) are the decoder's errors (`step_of_issue_error`), (c) and (d) the block's own refusal
(`exec_and_step_refused`), (e) the construction's (`constructPeer_of_bound`). -/
theorem contractBreachesAreRefused : Obligations.ContractBreachesAreRefused := by
  refine ⟨fun s name v rest hp => ?unlisted, fun s op v rest hp hrange => ?range, fun s i hbusy => ?busy,
    fun s i p hidle hmem hasserted => ?held, fun s sel rest hp hbound => ?bound⟩
  case unlisted => exact step_of_issue_error hp rfl
  case range =>
    obtain ⟨rfl | rfl, hv⟩ | ⟨rfl, hv⟩ := hrange
    · exact step_of_issue_error hp (byteOperand_of_out_of_range _ hv)
    · exact step_of_issue_error hp (byteOperand_of_out_of_range _ hv)
    · exact step_of_issue_error hp (dataOperand_of_out_of_range hv)
  case busy => exact exec_and_step_refused (State.Of.refusal_of_busy hbusy) i
  case held =>
    exact exec_and_step_refused (State.Of.refusal_of_held hidle (busHeld_iff.mpr ⟨p, hmem, hasserted⟩)) i
  case bound => exact (step_of_construct hp).trans (constructPeer_of_bound hbound)

end Sys2Proof.Machine
end

section
/-! Reset and the hazards of W (70_reset_and_hazards.md): the block right after construction and while nothing is asked
of it, what lets an operation terminate, the new W after a write_mode_register_1, and the runs in which the host knows the
chip's width. -/

namespace Sys2Proof.Machine

/-! ## Reset -/

/-- Settles O1: each register of a construction is read off, and reset is one by definition. -/
theorem constructionLeavesResetState : Obligations.ConstructionLeavesResetState := by
  refine ⟨?registers, Config.selectId, rfl⟩
  case registers =>
    rintro σ ε sel _ rfl
    exact ⟨rfl, rfl, rfl, rfl, rfl, rfl, rfl⟩

/-- An idle block with nothing listed by the host waits (70_reset_and_hazards.md R114). -/
theorem step_of_idle {s : State} (hidle : s.phase = .idle) (hport : s.port = []) : step s = .next s := by
  rw [step, advance, hport]
  exact busStep_of_idle hidle

/-- Settles O2: the block right after reset is idle with nothing listed, and every such block waits (`step_of_idle`). -/
theorem idleBlockWaitsForAnOperation : Obligations.IdleBlockWaitsForAnOperation :=
  ⟨step_of_idle rfl rfl, fun _ => step_of_idle⟩

/-! ## Termination -/

/-- A run cut by an answer meets that answer right after its `ok` ones. -/
theorem State.Of.answerAt_of_willAnswer_cut {σ ε : Type} {s : State.Of σ ε} {oks : List Byte} {last : Answer ε}
    (h : s.willAnswer (cutAnswers oks last)) : s.answerAt oks.length = last := by
  rw [State.Of.willAnswer, length_cutAnswers, List.range_succ, List.map_append, cutAnswers] at h
  exact List.singleton_inj.mp (List.append_inj_right h (by simp))

/-- Settles O34: of the three ends of an operation (`everyOperationIsExactlyOneFrame`) two leave it idle with a response,
and the third, the hang, needs an exchange of its frame that never answers. -/
theorem answeredOperationsTerminate : Obligations.AnsweredOperationsTerminate := by
  intro i s hr hanswers
  obtain ⟨t, ht⟩ := exec_next_of_ready i hr
  obtain ⟨-, ⟨b0, ins, r, -, -, -, -, hresp, hidle, hline, -⟩ |
    ⟨oks, e, -, -, -, -, -, hresp, hidle, hline, -⟩ | ⟨oks, hl, hw, -⟩⟩ := everyOperationIsExactlyOneFrame i s t ht
  · exact ⟨t, r, ht, hidle, hline, hresp⟩
  · exact ⟨t, .transportFailure e, ht, hidle, hline, hresp⟩
  · exact absurd (State.Of.answerAt_of_willAnswer_cut hw) (hanswers oks.length hl)

/-! ## The new width -/

/-- A write_mode_register_1 that responds done leaves the block ready with the width its operand selects: a failed one
responds the failure, a hung one nothing (42_write.md R88). -/
theorem ready_of_writeModeRegister1_done {v : Byte} {s t : State} (h : exec (.writeModeRegister1 v) s = .next t)
    (hdone : t.response = some .done) : t.ready ∧ t.width = 4 - v.toNat % 4 := by
  obtain ⟨⟨-, hbus⟩, ⟨b0, ins, -, -, rfl⟩ | ⟨oks, e, -, -, rfl⟩ | ⟨oks, -, -, rfl⟩⟩ := exec_cases h
  · obtain ⟨hwidth, -⟩ := widthFieldSelectsWidth
    exact ⟨⟨rfl, hbus⟩, hwidth v⟩
  · cases hdone
  · cases hdone

/-- As many exchanges as answers, where there are bytes for them all. -/
theorem length_xchgEvents {σ ε : Type} {bytes : List Byte} {answers : List (Answer ε)}
    (h : answers.length ≤ bytes.length) : (xchgEvents bytes answers : List (BusEvent σ ε)).length = answers.length := by
  rw [xchgEvents, List.length_zipWith, Nat.min_eq_right h]

/-- An operation that responds with code 0 put its whole frame on the bus: one exchange for the op-code and one for each
payload byte (20_memory.md R39, 60_exceptions.md R95). -/
theorem exec_trace_of_code_zero {i : Instr} {s t : State} {r : Response TransportError} (h : exec i s = .next t)
    (hr : t.response = some r) (hcode : r.code = 0) :
    ∃ xs, t.trace = s.trace ++ [.assert s.sel] ++ xs ++ [.release s.sel] ∧
      xs.length = 1 + payloadCount s.wc i ∧ ∀ x ∈ xs, x.isXchg = true := by
  obtain ⟨-, ⟨b0, ins, r', hl, -, -, htrace, -⟩ | ⟨oks, e, -, -, -, -, -, hfail, -⟩ |
    ⟨oks, -, -, -, -, hnone, -⟩⟩ := everyOperationIsExactlyOneFrame i s t h
  · obtain ⟨hlen, -⟩ := Laws.encodeLength_of i s.wc
    refine ⟨_, htrace, ?_, fun x hx => ?_⟩
    · rw [length_xchgEvents (by rw [length_okAnswers]; omega), length_okAnswers, hl, Nat.add_comm]
    · obtain ⟨b, a, rfl⟩ := eq_xchg_of_mem_xchgEvents hx
      rfl
  · cases hr.symm.trans hfail
    cases hcode
  · cases hr.symm.trans hnone

/-- Settles O38: the write leaves the block ready with the new W (`ready_of_writeModeRegister1_done`), and the payload of
the next width-dependent frame is that W (`exec_trace_of_code_zero`). -/
theorem newWidthTakesEffectAtOnce : Obligations.NewWidthTakesEffectAtOnce := by
  intro v s t h hdone
  obtain ⟨hready, hwidth⟩ := ready_of_writeModeRegister1_done h hdone
  refine ⟨hready, hwidth, fun i u r hdep hu hr hcode => ?_⟩
  have hpay : payloadCount t.wc i = 4 - v.toNat % 4 := (payloadCount_of_widthDependent hdep t.wc).trans hwidth
  rw [← hpay]
  exact exec_trace_of_code_zero hu hr hcode

/-! ## What the host knows of the chip's width -/

/-- The operation is none of the three that touch the chip's width field: no 0x10 clear and no write_mode_register_1
(70_reset_and_hazards.md R116, R118, R119). -/
def keepsChipWidth (i : Instr) : Prop :=
  i ≠ .clearModeRegister0 ∧ i ≠ .clearModeRegister1 ∧ ∀ u, i ≠ .writeModeRegister1 u

/-- The log holds a write_mode_register_1 that succeeded, with nothing after it that touches the chip's width field. -/
def resynchronisedBy (log : OpLog) : Prop :=
  ∃ pre v post, log = pre ++ (.writeModeRegister1 v, some .done) :: post ∧ ∀ x ∈ post, keepsChipWidth x.1

/-- Is the chip's width known after a log, from whether it was known before? -/
def widthKnownAfterLog (known : Bool) (log : OpLog) : Bool :=
  log.foldl (fun known x => widthKnownAfter known x.1 x.2) known

@[simp] theorem widthKnownAfterLog_nil (known : Bool) : widthKnownAfterLog known [] = known := rfl

@[simp] theorem widthKnownAfterLog_cons (known : Bool) (x : Instr × Option (Response TransportError)) (log : OpLog) :
    widthKnownAfterLog known (x :: log) = widthKnownAfterLog (widthKnownAfter known x.1 x.2) log := rfl

/-- After an operation the width is known because it was just written, or as before because nothing touched it. -/
theorem widthKnownAfter_iff (known : Bool) (x : Instr × Option (Response TransportError)) :
    widthKnownAfter known x.1 x.2 = true ↔
      (∃ v, x = (.writeModeRegister1 v, some .done)) ∨ known = true ∧ keepsChipWidth x.1 := by
  obtain ⟨i, r⟩ := x
  cases i <;> simp [widthKnownAfter, keepsChipWidth]

/-- In a log the last successful write is the first entry, or one further on. -/
theorem resynchronisedBy_cons (x : Instr × Option (Response TransportError)) (log : OpLog) :
    resynchronisedBy (x :: log) ↔
      (∃ v, x = (.writeModeRegister1 v, some .done)) ∧ (∀ y ∈ log, keepsChipWidth y.1) ∨ resynchronisedBy log := by
  constructor
  · rintro ⟨_ | ⟨y, pre⟩, v, post, heq, hpost⟩
    · cases heq
      exact .inl ⟨⟨v, rfl⟩, hpost⟩
    · cases heq
      exact .inr ⟨pre, v, post, rfl, hpost⟩
  · rintro (⟨⟨v, rfl⟩, hlog⟩ | ⟨pre, v, post, rfl, hpost⟩)
    · exact ⟨[], v, log, rfl, hlog⟩
    · exact ⟨x :: pre, v, post, rfl, hpost⟩

/-- The width is known after a log exactly if the log resynchronised it, or it was known and nothing touched it. -/
theorem widthKnownAfterLog_iff (log : OpLog) : ∀ known : Bool, widthKnownAfterLog known log = true ↔
    resynchronisedBy log ∨ known = true ∧ ∀ x ∈ log, keepsChipWidth x.1 := by
  induction log with
  | nil => simp [resynchronisedBy]
  | cons x log ih =>
    intro known
    rw [widthKnownAfterLog_cons, ih, widthKnownAfter_iff, resynchronisedBy_cons, List.forall_mem_cons]
    tauto

/-- A log is safe exactly if the width is known wherever a width-dependent operation stands in it. -/
theorem widthSafe_iff (log : OpLog) : ∀ known : Bool, widthSafe known log = true ↔
    ∀ pre post i r, log = pre ++ (i, r) :: post → i.widthDependent = true → widthKnownAfterLog known pre = true := by
  induction log with
  | nil => simp [widthSafe]
  | cons x log ih =>
    obtain ⟨j, q⟩ := x
    intro known
    rw [widthSafe, Bool.and_eq_true, ih]
    constructor
    · rintro ⟨hfirst, hrest⟩ (_ | ⟨y, pre⟩) post i r heq hdep
      · cases heq
        simpa [hdep] using hfirst
      · cases heq
        exact hrest pre post i r rfl hdep
    · intro h
      refine ⟨?_, fun pre post i r heq hdep => h ((j, q) :: pre) post i r (by rw [heq]; rfl) hdep⟩
      cases hdep : j.widthDependent with
      | false => simp
      | true => simpa using h [] log j q rfl hdep

/-! ## Runs of operations -/

/-- A run that answers is its first operation's answer, and the rest of the run from there. -/
theorem runOps_cons {s t : State} {i : Instr} {ops : List Instr} {log : OpLog}
    (h : runOps s (i :: ops) = some (log, t)) :
    ∃ u rest, exec i s = .next u ∧ runOps u ops = some (rest, t) ∧ log = (i, u.response) :: rest := by
  rw [runOps] at h
  cases hu : exec i s with
  | next u =>
    rw [hu] at h
    obtain ⟨⟨rest, t'⟩, hrun, heq⟩ := Option.map_eq_some_iff.mp h
    cases heq
    exact ⟨u, rest, rfl, hrun, rfl⟩
  | fault f => rw [hu] at h; cases h
  | refused r => rw [hu] at h; cases h

/-- Each entry of a run's log is an operation of the run with the response it left, and the entries after it are the log
of the run from there. -/
theorem runOps_entry {t : State} {i : Instr} {r : Option (Response TransportError)} {post : OpLog} (ops : List Instr) :
    ∀ (s : State) (pre : OpLog), runOps s ops = some (pre ++ (i, r) :: post, t) →
      ∃ u u' rest, exec i u = .next u' ∧ u'.response = r ∧ runOps u' rest = some (post, t) := by
  induction ops with
  | nil =>
    intro s pre h
    simp [runOps] at h
  | cons j ops ih =>
    intro s pre h
    obtain ⟨u, rest, hu, hrun, hlog⟩ := runOps_cons h
    cases pre with
    | nil =>
      cases hlog
      exact ⟨s, u, ops, hu, rfl, hrun⟩
    | cons x pre =>
      cases hlog
      exact ih u pre hrun

/-- A run without a write_mode_register_1 keeps W (10_state.md R33). -/
theorem runOps_keeps_wc {t : State} (ops : List Instr) : ∀ (s : State) (log : OpLog),
    runOps s ops = some (log, t) → (∀ x ∈ log, ∀ u, x.1 ≠ .writeModeRegister1 u) → t.wc = s.wc := by
  induction ops with
  | nil =>
    intro s log h _
    cases h
    rfl
  | cons i ops ih =>
    intro s log h hno
    obtain ⟨u, rest, hu, hrun, rfl⟩ := runOps_cons h
    obtain ⟨hi, hrest⟩ := List.forall_mem_cons.mp hno
    have hkeeps : u.wc = s.wc := by
      by_contra hne
      obtain ⟨v, hv, -, -⟩ := exec_wc_ne hu hne
      exact hi v hv
    exact (ih u rest hrun hrest).trans hkeeps

/-- Settles O49: a log is safe exactly if the width is known before each width-dependent operation (`widthSafe_iff`), which
says when the log so far resynchronised it (`widthKnownAfterLog_iff`). The last successful write sets W
(`ready_of_writeModeRegister1_done`), and the run after it keeps W (`runOps_keeps_wc`). -/
theorem widthSafeRunsResynchronise : Obligations.WidthSafeRunsResynchronise := by
  intro s t ops log hrun
  refine ⟨fun known => ?safe, fun pre post v hlog hno => ?width⟩
  case safe =>
    simp only [widthSafe_iff, widthKnownAfterLog_iff, resynchronisedBy, keepsChipWidth]
  case width =>
    subst hlog
    obtain ⟨u, u', rest, hu, hdone, hrest⟩ := runOps_entry ops s pre hrun
    obtain ⟨-, hwidth⟩ := ready_of_writeModeRegister1_done hu hdone
    have hkeeps : t.width = u'.width := congrArg widthOf (runOps_keeps_wc rest u' post hrest hno)
    exact hkeeps.trans hwidth

end Sys2Proof.Machine
end
